-- ==== Sys2Proof/Word.lean ====
section
/-! DEFINITION. The two word types of the machine (spec/00_scope.md R4): an 8-bit byte (A, X, Y, SP, a memory cell,
every ALU operand) and a 16-bit word (an address, PC). -/

namespace Sys2Proof

/-- 8 bits: the width of A, X, Y, SP, of a memory cell and of every ALU operand (R4, decision D1). -/
abbrev Byte := BitVec 8

/-- 16 bits: the width of an address and of PC (R4, R35, R50). -/
abbrev Word := BitVec 16

end Sys2Proof
end

