-- ==== Sys2Proof/Machine/Bits.lean ====
section
/-! DEFINITION. Byte order and extension helpers (R6, R7, R51): the two halves of a word, a word from its halves, zero
and sign extension of a byte to 16 bits. -/

namespace Sys2Proof.Machine

/-- `hi ++ lo` (R6): the word whose high byte is `hi` and whose low byte is `lo`. -/
def word (hi lo : Byte) : Word := hi ++ lo

/-- `lo(w) = w[7:0]` (R6); PCL of PC (R35). -/
def lo (w : Word) : Byte := w.extractLsb' 0 8

/-- `hi(w) = w[15:8]` (R6); PCH of PC (R35). -/
def hi (w : Word) : Byte := w.extractLsb' 8 8

/-- `zext_16` (R7): the unsigned byte as a word; also the zero-page address `$00 ++ b` (R87). -/
def zext (b : Byte) : Word := b.setWidth 16

/-- `sext_16` (R7): the signed byte as a word; used for relative offsets (R87). -/
def sext (b : Byte) : Word := b.signExtend 16

/-- A number as a flag or a carry: `b2n` (R7). -/
def b2n (p : Bool) : Nat := if p then 1 else 0

end Sys2Proof.Machine
end

