-- ==== Sys2Proof/Syntax.lean ====
section
/-! DEFINITION. The instructions: one constructor of `Instr` for each mnemonic of spec/opcode_table.json. Where a
mnemonic has several rows of the table, its operand form is the constructor's argument (R105, log 21). -/

namespace Sys2Proof

/-- The nine addressing modes that form the effective address of a data byte (R91 to R99), with their operand bytes;
a 16-bit operand stands as the address it denotes (R86). -/
inductive AddrMode where
  /-- `zp`: `$12`. -/
  | zp (z : Byte)
  /-- `zp,X`: `$12,X`. -/
  | zpX (z : Byte)
  /-- `zp,Y`: `$12,Y`. -/
  | zpY (z : Byte)
  /-- `abs`: `$1234`. -/
  | abs (a : Word)
  /-- `abs,X`: `$1234,X`. -/
  | absX (a : Word)
  /-- `abs,Y`: `$1234,Y`. -/
  | absY (a : Word)
  /-- `(zp,X)`: `($12,X)`. -/
  | indX (z : Byte)
  /-- `(zp),Y`: `($12),Y`. -/
  | indY (z : Byte)
  /-- `(zp)`: `($12)`. -/
  | ind (z : Byte)
  deriving DecidableEq, Repr

/-- The operand of an instruction that only reads it: an immediate byte (R90) or a memory byte. -/
inductive Source where
  | imm (b : Byte)
  | mem (m : AddrMode)
  deriving DecidableEq, Repr

/-- The operand of a read-modify-write instruction: register A (mode `acc`, R89) or a memory byte. -/
inductive Target where
  | acc
  | mem (m : AddrMode)
  deriving DecidableEq, Repr

/-- The operand of JMP: `abs` (R94), `(abs)` (R100) or `(abs,X)` (R101). -/
inductive JumpMode where
  | abs (a : Word)
  | ind (a : Word)
  | indX (a : Word)
  deriving DecidableEq, Repr

/-- The instructions. A relative offset is its raw byte; `z` is a zero-page address. The invalid opcodes keep their
opcode byte and the operand bytes they skip (R216 to R218), so that no bit of an encoding is lost. -/
inductive Instr where
  | adc (src : Source)
  | and (src : Source)
  | asl (t : Target)
  | bbr0 (z off : Byte)
  | bbr1 (z off : Byte)
  | bbr2 (z off : Byte)
  | bbr3 (z off : Byte)
  | bbr4 (z off : Byte)
  | bbr5 (z off : Byte)
  | bbr6 (z off : Byte)
  | bbr7 (z off : Byte)
  | bbs0 (z off : Byte)
  | bbs1 (z off : Byte)
  | bbs2 (z off : Byte)
  | bbs3 (z off : Byte)
  | bbs4 (z off : Byte)
  | bbs5 (z off : Byte)
  | bbs6 (z off : Byte)
  | bbs7 (z off : Byte)
  | bpl (off : Byte)
  | bmi (off : Byte)
  | bvc (off : Byte)
  | bvs (off : Byte)
  | bra (off : Byte)
  | bcc (off : Byte)
  | bcs (off : Byte)
  | bne (off : Byte)
  | beq (off : Byte)
  | bit (src : Source)
  | brk
  | clc
  | cld
  | cli
  | clv
  | sec
  | sed
  | sei
  | cmp (src : Source)
  | cpx (src : Source)
  | cpy (src : Source)
  | dec (t : Target)
  | dex
  | dey
  | eor (src : Source)
  | inc (t : Target)
  | inx
  | iny
  | jmp (m : JumpMode)
  | jsr (a : Word)
  | lda (src : Source)
  | ldx (src : Source)
  | ldy (src : Source)
  | lsr (t : Target)
  | nop
  | nop1 (op : Byte)
  | nop2 (op b1 : Byte)
  | nop3 (op b1 b2 : Byte)
  | ora (src : Source)
  | pha
  | php
  | phx
  | phy
  | pla
  | plp
  | plx
  | ply
  | rmb0 (z : Byte)
  | rmb1 (z : Byte)
  | rmb2 (z : Byte)
  | rmb3 (z : Byte)
  | rmb4 (z : Byte)
  | rmb5 (z : Byte)
  | rmb6 (z : Byte)
  | rmb7 (z : Byte)
  | rol (t : Target)
  | ror (t : Target)
  | rti
  | rts
  | sbc (src : Source)
  | smb0 (z : Byte)
  | smb1 (z : Byte)
  | smb2 (z : Byte)
  | smb3 (z : Byte)
  | smb4 (z : Byte)
  | smb5 (z : Byte)
  | smb6 (z : Byte)
  | smb7 (z : Byte)
  | sta (m : AddrMode)
  | stp
  | stx (m : AddrMode)
  | sty (m : AddrMode)
  | stz (m : AddrMode)
  | tax
  | tay
  | tsx
  | txa
  | tya
  | txs
  | trb (m : AddrMode)
  | tsb (m : AddrMode)
  | wai
  deriving DecidableEq, Repr

end Sys2Proof
end

