-- ==== Sys2Proof/WellFormed.lean ====
section
/-! DEFINITION. Which terms of `Instr` are instructions of this machine (R105: "a mode not listed for a mnemonic does
not exist for it"; R216 to R218 for the bytes of the invalid opcodes). Checks only; a term that fails one has no
encoding (log 21). -/

namespace Sys2Proof

/-- The modes of the eight-way group ADC AND CMP EOR LDA ORA SBC STA: all but `zp,Y` (R105). -/
def AddrMode.isAlu : AddrMode → Bool
  | .zpY _ => false
  | _ => true

/-- `zp`, `abs` (R105: CPX, CPY, TRB, TSB). -/
def AddrMode.isPlain : AddrMode → Bool
  | .zp _ | .abs _ => true
  | _ => false

/-- `zp`, `zp,X`, `abs` (R105: STY). -/
def AddrMode.isPlainZpX : AddrMode → Bool
  | .zpX _ => true
  | m => m.isPlain

/-- `zp`, `zp,Y`, `abs` (R105: STX). -/
def AddrMode.isPlainZpY : AddrMode → Bool
  | .zpY _ => true
  | m => m.isPlain

/-- `zp`, `zp,X`, `abs`, `abs,X` (R105: ASL, LSR, ROL, ROR, INC, DEC, BIT, LDY, STZ). -/
def AddrMode.isByX : AddrMode → Bool
  | .absX _ => true
  | m => m.isPlainZpX

/-- `zp`, `zp,Y`, `abs`, `abs,Y` (R105: LDX). -/
def AddrMode.isByY : AddrMode → Bool
  | .absY _ => true
  | m => m.isPlainZpY

/-- An immediate, or a memory operand whose mode passes `p`. -/
def Source.allows (p : AddrMode → Bool) : Source → Bool
  | .imm _ => true
  | .mem m => p m

/-- Register A, or a memory operand whose mode passes `p`. -/
def Target.allows (p : AddrMode → Bool) : Target → Bool
  | .acc => true
  | .mem m => p m

/-- The 30 one-byte invalid opcodes (R83, R216): columns 3 and B, but for WAI (`$CB`) and STP (`$DB`). -/
def isNop1 (op : Byte) : Bool :=
  (op.toNat % 16 == 0x3 || op.toNat % 16 == 0xB) && op != 0xCB#8 && op != 0xDB#8

/-- The 11 two-byte invalid opcodes (R83, R217). -/
def isNop2 (op : Byte) : Bool :=
  [0x02#8, 0x22#8, 0x42#8, 0x62#8, 0x82#8, 0xC2#8, 0xE2#8, 0x44#8, 0x54#8, 0xD4#8, 0xF4#8].contains op

/-- The 3 three-byte invalid opcodes (R83, R218). -/
def isNop3 (op : Byte) : Bool :=
  [0xDC#8, 0xFC#8, 0x5C#8].contains op

/-- The instruction exists: its mnemonic has the operand form it carries (R105), and an invalid opcode is one of those
of its length (R83). -/
def Instr.wellFormed : Instr → Bool
  | .adc s | .and s | .cmp s | .eor s | .lda s | .ora s | .sbc s => s.allows AddrMode.isAlu
  | .sta m => m.isAlu
  | .bit s | .ldy s => s.allows AddrMode.isByX
  | .ldx s => s.allows AddrMode.isByY
  | .cpx s | .cpy s => s.allows AddrMode.isPlain
  | .asl t | .dec t | .inc t | .lsr t | .rol t | .ror t => t.allows AddrMode.isByX
  | .stx m => m.isPlainZpY
  | .sty m => m.isPlainZpX
  | .stz m => m.isByX
  | .trb m | .tsb m => m.isPlain
  | .nop1 op => isNop1 op
  | .nop2 op _ => isNop2 op
  | .nop3 op _ _ => isNop3 op
  | .bbr0 .. | .bbr1 .. | .bbr2 .. | .bbr3 .. | .bbr4 .. | .bbr5 .. | .bbr6 .. | .bbr7 .. => true
  | .bbs0 .. | .bbs1 .. | .bbs2 .. | .bbs3 .. | .bbs4 .. | .bbs5 .. | .bbs6 .. | .bbs7 .. => true
  | .bpl _ | .bmi _ | .bvc _ | .bvs _ | .bra _ | .bcc _ | .bcs _ | .bne _ | .beq _ => true
  | .brk | .clc | .cld | .cli | .clv | .sec | .sed | .sei => true
  | .dex | .dey | .inx | .iny | .jmp _ | .jsr _ | .nop => true
  | .pha | .php | .phx | .phy | .pla | .plp | .plx | .ply => true
  | .rmb0 _ | .rmb1 _ | .rmb2 _ | .rmb3 _ | .rmb4 _ | .rmb5 _ | .rmb6 _ | .rmb7 _ => true
  | .smb0 _ | .smb1 _ | .smb2 _ | .smb3 _ | .smb4 _ | .smb5 _ | .smb6 _ | .smb7 _ => true
  | .rti | .rts | .stp | .wai => true
  | .tax | .tay | .tsx | .txa | .tya | .txs => true

end Sys2Proof
end

