-- ==== Sys2Proof/Decode.lean ====
section
/-! DEFINITION. The decoder (R80 to R86, R110) and, after it, the encoder of well-formed instructions (R81, R82, R105),
both from the spec's own encoding tables. -/

namespace Sys2Proof

open Sys2Proof.Machine (word lo hi)

/-- Row `0x` of the opcode map (R110): the instruction of opcode `$00` to `$0F`, by the low nibble. -/
def decodeRow0 (low : Nat) (b1 b2 : Byte) : Instr :=
  match low with
  | 0x0 => .brk
  | 0x1 => .ora (.mem (.indX b1))
  | 0x2 => .nop2 0x02#8 b1
  | 0x3 => .nop1 0x03#8
  | 0x4 => .tsb (.zp b1)
  | 0x5 => .ora (.mem (.zp b1))
  | 0x6 => .asl (.mem (.zp b1))
  | 0x7 => .rmb0 b1
  | 0x8 => .php
  | 0x9 => .ora (.imm b1)
  | 0xA => .asl .acc
  | 0xB => .nop1 0x0B#8
  | 0xC => .tsb (.abs (word b2 b1))
  | 0xD => .ora (.mem (.abs (word b2 b1)))
  | 0xE => .asl (.mem (.abs (word b2 b1)))
  | _ => .bbr0 b1 b2

/-- Row `1x` of the opcode map (R110): the instruction of opcode `$10` to `$1F`, by the low nibble. -/
def decodeRow1 (low : Nat) (b1 b2 : Byte) : Instr :=
  match low with
  | 0x0 => .bpl b1
  | 0x1 => .ora (.mem (.indY b1))
  | 0x2 => .ora (.mem (.ind b1))
  | 0x3 => .nop1 0x13#8
  | 0x4 => .trb (.zp b1)
  | 0x5 => .ora (.mem (.zpX b1))
  | 0x6 => .asl (.mem (.zpX b1))
  | 0x7 => .rmb1 b1
  | 0x8 => .clc
  | 0x9 => .ora (.mem (.absY (word b2 b1)))
  | 0xA => .inc .acc
  | 0xB => .nop1 0x1B#8
  | 0xC => .trb (.abs (word b2 b1))
  | 0xD => .ora (.mem (.absX (word b2 b1)))
  | 0xE => .asl (.mem (.absX (word b2 b1)))
  | _ => .bbr1 b1 b2

/-- Row `2x` of the opcode map (R110): the instruction of opcode `$20` to `$2F`, by the low nibble. -/
def decodeRow2 (low : Nat) (b1 b2 : Byte) : Instr :=
  match low with
  | 0x0 => .jsr (word b2 b1)
  | 0x1 => .and (.mem (.indX b1))
  | 0x2 => .nop2 0x22#8 b1
  | 0x3 => .nop1 0x23#8
  | 0x4 => .bit (.mem (.zp b1))
  | 0x5 => .and (.mem (.zp b1))
  | 0x6 => .rol (.mem (.zp b1))
  | 0x7 => .rmb2 b1
  | 0x8 => .plp
  | 0x9 => .and (.imm b1)
  | 0xA => .rol .acc
  | 0xB => .nop1 0x2B#8
  | 0xC => .bit (.mem (.abs (word b2 b1)))
  | 0xD => .and (.mem (.abs (word b2 b1)))
  | 0xE => .rol (.mem (.abs (word b2 b1)))
  | _ => .bbr2 b1 b2

/-- Row `3x` of the opcode map (R110): the instruction of opcode `$30` to `$3F`, by the low nibble. -/
def decodeRow3 (low : Nat) (b1 b2 : Byte) : Instr :=
  match low with
  | 0x0 => .bmi b1
  | 0x1 => .and (.mem (.indY b1))
  | 0x2 => .and (.mem (.ind b1))
  | 0x3 => .nop1 0x33#8
  | 0x4 => .bit (.mem (.zpX b1))
  | 0x5 => .and (.mem (.zpX b1))
  | 0x6 => .rol (.mem (.zpX b1))
  | 0x7 => .rmb3 b1
  | 0x8 => .sec
  | 0x9 => .and (.mem (.absY (word b2 b1)))
  | 0xA => .dec .acc
  | 0xB => .nop1 0x3B#8
  | 0xC => .bit (.mem (.absX (word b2 b1)))
  | 0xD => .and (.mem (.absX (word b2 b1)))
  | 0xE => .rol (.mem (.absX (word b2 b1)))
  | _ => .bbr3 b1 b2

/-- Row `4x` of the opcode map (R110): the instruction of opcode `$40` to `$4F`, by the low nibble. -/
def decodeRow4 (low : Nat) (b1 b2 : Byte) : Instr :=
  match low with
  | 0x0 => .rti
  | 0x1 => .eor (.mem (.indX b1))
  | 0x2 => .nop2 0x42#8 b1
  | 0x3 => .nop1 0x43#8
  | 0x4 => .nop2 0x44#8 b1
  | 0x5 => .eor (.mem (.zp b1))
  | 0x6 => .lsr (.mem (.zp b1))
  | 0x7 => .rmb4 b1
  | 0x8 => .pha
  | 0x9 => .eor (.imm b1)
  | 0xA => .lsr .acc
  | 0xB => .nop1 0x4B#8
  | 0xC => .jmp (.abs (word b2 b1))
  | 0xD => .eor (.mem (.abs (word b2 b1)))
  | 0xE => .lsr (.mem (.abs (word b2 b1)))
  | _ => .bbr4 b1 b2

/-- Row `5x` of the opcode map (R110): the instruction of opcode `$50` to `$5F`, by the low nibble. -/
def decodeRow5 (low : Nat) (b1 b2 : Byte) : Instr :=
  match low with
  | 0x0 => .bvc b1
  | 0x1 => .eor (.mem (.indY b1))
  | 0x2 => .eor (.mem (.ind b1))
  | 0x3 => .nop1 0x53#8
  | 0x4 => .nop2 0x54#8 b1
  | 0x5 => .eor (.mem (.zpX b1))
  | 0x6 => .lsr (.mem (.zpX b1))
  | 0x7 => .rmb5 b1
  | 0x8 => .cli
  | 0x9 => .eor (.mem (.absY (word b2 b1)))
  | 0xA => .phy
  | 0xB => .nop1 0x5B#8
  | 0xC => .nop3 0x5C#8 b1 b2
  | 0xD => .eor (.mem (.absX (word b2 b1)))
  | 0xE => .lsr (.mem (.absX (word b2 b1)))
  | _ => .bbr5 b1 b2

/-- Row `6x` of the opcode map (R110): the instruction of opcode `$60` to `$6F`, by the low nibble. -/
def decodeRow6 (low : Nat) (b1 b2 : Byte) : Instr :=
  match low with
  | 0x0 => .rts
  | 0x1 => .adc (.mem (.indX b1))
  | 0x2 => .nop2 0x62#8 b1
  | 0x3 => .nop1 0x63#8
  | 0x4 => .stz (.zp b1)
  | 0x5 => .adc (.mem (.zp b1))
  | 0x6 => .ror (.mem (.zp b1))
  | 0x7 => .rmb6 b1
  | 0x8 => .pla
  | 0x9 => .adc (.imm b1)
  | 0xA => .ror .acc
  | 0xB => .nop1 0x6B#8
  | 0xC => .jmp (.ind (word b2 b1))
  | 0xD => .adc (.mem (.abs (word b2 b1)))
  | 0xE => .ror (.mem (.abs (word b2 b1)))
  | _ => .bbr6 b1 b2

/-- Row `7x` of the opcode map (R110): the instruction of opcode `$70` to `$7F`, by the low nibble. -/
def decodeRow7 (low : Nat) (b1 b2 : Byte) : Instr :=
  match low with
  | 0x0 => .bvs b1
  | 0x1 => .adc (.mem (.indY b1))
  | 0x2 => .adc (.mem (.ind b1))
  | 0x3 => .nop1 0x73#8
  | 0x4 => .stz (.zpX b1)
  | 0x5 => .adc (.mem (.zpX b1))
  | 0x6 => .ror (.mem (.zpX b1))
  | 0x7 => .rmb7 b1
  | 0x8 => .sei
  | 0x9 => .adc (.mem (.absY (word b2 b1)))
  | 0xA => .ply
  | 0xB => .nop1 0x7B#8
  | 0xC => .jmp (.indX (word b2 b1))
  | 0xD => .adc (.mem (.absX (word b2 b1)))
  | 0xE => .ror (.mem (.absX (word b2 b1)))
  | _ => .bbr7 b1 b2

/-- Row `8x` of the opcode map (R110): the instruction of opcode `$80` to `$8F`, by the low nibble. -/
def decodeRow8 (low : Nat) (b1 b2 : Byte) : Instr :=
  match low with
  | 0x0 => .bra b1
  | 0x1 => .sta (.indX b1)
  | 0x2 => .nop2 0x82#8 b1
  | 0x3 => .nop1 0x83#8
  | 0x4 => .sty (.zp b1)
  | 0x5 => .sta (.zp b1)
  | 0x6 => .stx (.zp b1)
  | 0x7 => .smb0 b1
  | 0x8 => .dey
  | 0x9 => .bit (.imm b1)
  | 0xA => .txa
  | 0xB => .nop1 0x8B#8
  | 0xC => .sty (.abs (word b2 b1))
  | 0xD => .sta (.abs (word b2 b1))
  | 0xE => .stx (.abs (word b2 b1))
  | _ => .bbs0 b1 b2

/-- Row `9x` of the opcode map (R110): the instruction of opcode `$90` to `$9F`, by the low nibble. -/
def decodeRow9 (low : Nat) (b1 b2 : Byte) : Instr :=
  match low with
  | 0x0 => .bcc b1
  | 0x1 => .sta (.indY b1)
  | 0x2 => .sta (.ind b1)
  | 0x3 => .nop1 0x93#8
  | 0x4 => .sty (.zpX b1)
  | 0x5 => .sta (.zpX b1)
  | 0x6 => .stx (.zpY b1)
  | 0x7 => .smb1 b1
  | 0x8 => .tya
  | 0x9 => .sta (.absY (word b2 b1))
  | 0xA => .txs
  | 0xB => .nop1 0x9B#8
  | 0xC => .stz (.abs (word b2 b1))
  | 0xD => .sta (.absX (word b2 b1))
  | 0xE => .stz (.absX (word b2 b1))
  | _ => .bbs1 b1 b2

/-- Row `Ax` of the opcode map (R110): the instruction of opcode `$A0` to `$AF`, by the low nibble. -/
def decodeRowA (low : Nat) (b1 b2 : Byte) : Instr :=
  match low with
  | 0x0 => .ldy (.imm b1)
  | 0x1 => .lda (.mem (.indX b1))
  | 0x2 => .ldx (.imm b1)
  | 0x3 => .nop1 0xA3#8
  | 0x4 => .ldy (.mem (.zp b1))
  | 0x5 => .lda (.mem (.zp b1))
  | 0x6 => .ldx (.mem (.zp b1))
  | 0x7 => .smb2 b1
  | 0x8 => .tay
  | 0x9 => .lda (.imm b1)
  | 0xA => .tax
  | 0xB => .nop1 0xAB#8
  | 0xC => .ldy (.mem (.abs (word b2 b1)))
  | 0xD => .lda (.mem (.abs (word b2 b1)))
  | 0xE => .ldx (.mem (.abs (word b2 b1)))
  | _ => .bbs2 b1 b2

/-- Row `Bx` of the opcode map (R110): the instruction of opcode `$B0` to `$BF`, by the low nibble. -/
def decodeRowB (low : Nat) (b1 b2 : Byte) : Instr :=
  match low with
  | 0x0 => .bcs b1
  | 0x1 => .lda (.mem (.indY b1))
  | 0x2 => .lda (.mem (.ind b1))
  | 0x3 => .nop1 0xB3#8
  | 0x4 => .ldy (.mem (.zpX b1))
  | 0x5 => .lda (.mem (.zpX b1))
  | 0x6 => .ldx (.mem (.zpY b1))
  | 0x7 => .smb3 b1
  | 0x8 => .clv
  | 0x9 => .lda (.mem (.absY (word b2 b1)))
  | 0xA => .tsx
  | 0xB => .nop1 0xBB#8
  | 0xC => .ldy (.mem (.absX (word b2 b1)))
  | 0xD => .lda (.mem (.absX (word b2 b1)))
  | 0xE => .ldx (.mem (.absY (word b2 b1)))
  | _ => .bbs3 b1 b2

/-- Row `Cx` of the opcode map (R110): the instruction of opcode `$C0` to `$CF`, by the low nibble. -/
def decodeRowC (low : Nat) (b1 b2 : Byte) : Instr :=
  match low with
  | 0x0 => .cpy (.imm b1)
  | 0x1 => .cmp (.mem (.indX b1))
  | 0x2 => .nop2 0xC2#8 b1
  | 0x3 => .nop1 0xC3#8
  | 0x4 => .cpy (.mem (.zp b1))
  | 0x5 => .cmp (.mem (.zp b1))
  | 0x6 => .dec (.mem (.zp b1))
  | 0x7 => .smb4 b1
  | 0x8 => .iny
  | 0x9 => .cmp (.imm b1)
  | 0xA => .dex
  | 0xB => .wai
  | 0xC => .cpy (.mem (.abs (word b2 b1)))
  | 0xD => .cmp (.mem (.abs (word b2 b1)))
  | 0xE => .dec (.mem (.abs (word b2 b1)))
  | _ => .bbs4 b1 b2

/-- Row `Dx` of the opcode map (R110): the instruction of opcode `$D0` to `$DF`, by the low nibble. -/
def decodeRowD (low : Nat) (b1 b2 : Byte) : Instr :=
  match low with
  | 0x0 => .bne b1
  | 0x1 => .cmp (.mem (.indY b1))
  | 0x2 => .cmp (.mem (.ind b1))
  | 0x3 => .nop1 0xD3#8
  | 0x4 => .nop2 0xD4#8 b1
  | 0x5 => .cmp (.mem (.zpX b1))
  | 0x6 => .dec (.mem (.zpX b1))
  | 0x7 => .smb5 b1
  | 0x8 => .cld
  | 0x9 => .cmp (.mem (.absY (word b2 b1)))
  | 0xA => .phx
  | 0xB => .stp
  | 0xC => .nop3 0xDC#8 b1 b2
  | 0xD => .cmp (.mem (.absX (word b2 b1)))
  | 0xE => .dec (.mem (.absX (word b2 b1)))
  | _ => .bbs5 b1 b2

/-- Row `Ex` of the opcode map (R110): the instruction of opcode `$E0` to `$EF`, by the low nibble. -/
def decodeRowE (low : Nat) (b1 b2 : Byte) : Instr :=
  match low with
  | 0x0 => .cpx (.imm b1)
  | 0x1 => .sbc (.mem (.indX b1))
  | 0x2 => .nop2 0xE2#8 b1
  | 0x3 => .nop1 0xE3#8
  | 0x4 => .cpx (.mem (.zp b1))
  | 0x5 => .sbc (.mem (.zp b1))
  | 0x6 => .inc (.mem (.zp b1))
  | 0x7 => .smb6 b1
  | 0x8 => .inx
  | 0x9 => .sbc (.imm b1)
  | 0xA => .nop
  | 0xB => .nop1 0xEB#8
  | 0xC => .cpx (.mem (.abs (word b2 b1)))
  | 0xD => .sbc (.mem (.abs (word b2 b1)))
  | 0xE => .inc (.mem (.abs (word b2 b1)))
  | _ => .bbs6 b1 b2

/-- Row `Fx` of the opcode map (R110): the instruction of opcode `$F0` to `$FF`, by the low nibble. -/
def decodeRowF (low : Nat) (b1 b2 : Byte) : Instr :=
  match low with
  | 0x0 => .beq b1
  | 0x1 => .sbc (.mem (.indY b1))
  | 0x2 => .sbc (.mem (.ind b1))
  | 0x3 => .nop1 0xF3#8
  | 0x4 => .nop2 0xF4#8 b1
  | 0x5 => .sbc (.mem (.zpX b1))
  | 0x6 => .inc (.mem (.zpX b1))
  | 0x7 => .smb7 b1
  | 0x8 => .sed
  | 0x9 => .sbc (.mem (.absY (word b2 b1)))
  | 0xA => .plx
  | 0xB => .nop1 0xFB#8
  | 0xC => .nop3 0xFC#8 b1 b2
  | 0xD => .sbc (.mem (.absX (word b2 b1)))
  | 0xE => .inc (.mem (.absX (word b2 b1)))
  | _ => .bbs7 b1 b2

/-- The instruction that the opcode byte `op` and the two bytes after it make (R110): a total function, since all 256
opcode bytes are defined (R83). A byte that the opcode's length does not take in is not used; the two bytes of a
16-bit operand stand low byte first (R86). -/
def decodeOpcode (op b1 b2 : Byte) : Instr :=
  match op.toNat / 16 with
  | 0x0 => decodeRow0 (op.toNat % 16) b1 b2
  | 0x1 => decodeRow1 (op.toNat % 16) b1 b2
  | 0x2 => decodeRow2 (op.toNat % 16) b1 b2
  | 0x3 => decodeRow3 (op.toNat % 16) b1 b2
  | 0x4 => decodeRow4 (op.toNat % 16) b1 b2
  | 0x5 => decodeRow5 (op.toNat % 16) b1 b2
  | 0x6 => decodeRow6 (op.toNat % 16) b1 b2
  | 0x7 => decodeRow7 (op.toNat % 16) b1 b2
  | 0x8 => decodeRow8 (op.toNat % 16) b1 b2
  | 0x9 => decodeRow9 (op.toNat % 16) b1 b2
  | 0xA => decodeRowA (op.toNat % 16) b1 b2
  | 0xB => decodeRowB (op.toNat % 16) b1 b2
  | 0xC => decodeRowC (op.toNat % 16) b1 b2
  | 0xD => decodeRowD (op.toNat % 16) b1 b2
  | 0xE => decodeRowE (op.toNat % 16) b1 b2
  | _ => decodeRowF (op.toNat % 16) b1 b2

/-- LEN of an opcode byte: the grid of R84, column by column. -/
def opcodeLength (op : Byte) : Nat :=
  let row := op.toNat / 16
  match op.toNat % 16 with
  | 0x0 => if row = 0x2 then 3 else if row = 0x0 ∨ row = 0x4 ∨ row = 0x6 then 1 else 2
  | 0x3 | 0x8 | 0xA | 0xB => 1
  | 0x9 => if row % 2 = 0 then 2 else 3
  | 0xC | 0xD | 0xE | 0xF => 3
  | _ => 2

/-- Why a sequence of bytes is no instruction. No opcode byte is illegal (R83): only bytes can be missing. -/
inductive DecodeError where
  /-- There is no byte at all. -/
  | noBytes
  /-- The opcode's LEN asks for more bytes than there are. -/
  | missingOperandBytes (op : Byte)
  deriving DecidableEq, Repr

/-- The instruction at the head of a sequence of bytes, and the bytes after it (R80). -/
def decode : List Byte → Except DecodeError (Instr × List Byte)
  | [] => .error .noBytes
  | op :: rest =>
    if rest.length + 1 < opcodeLength op then .error (.missingOperandBytes op)
    else .ok (decodeOpcode op (rest.getD 0 0) (rest.getD 1 0), rest.drop (opcodeLength op - 1))

/-- The byte of a word numbered as spec/opcode_table.json numbers it: byte `k` is bits `8k+7 .. 8k`. -/
def tableByte (w k : Nat) : Byte := BitVec.ofNat 8 (w / 2 ^ (8 * k))

/-- The bytes of a table word of `nbits` bits, in memory order, up to the longest instruction; the bits above `nbits`
are 0. -/
def tableBytes (nbits w : Nat) : List Byte :=
  let v := w % 2 ^ nbits
  [tableByte v 0, tableByte v 1, tableByte v 2]

/-- What the decoder reads from an instruction whose bits are `w`, bit 0 the least significant bit of the first byte. -/
def decodeTableWord (nbits w : Nat) : Option Instr :=
  match decode (tableBytes nbits w) with
  | .ok (i, _) => some i
  | .error _ => none

/-! ### The encoder -/

/-- LEN of an instruction in this mode (R91 to R99). -/
def AddrMode.len : AddrMode → Nat
  | .zp _ | .zpX _ | .zpY _ | .indX _ | .indY _ | .ind _ => 2
  | .abs _ | .absX _ | .absY _ => 3

/-- LEN of an instruction with this operand (R90: an immediate has LEN 2). -/
def Source.len : Source → Nat
  | .imm _ => 2
  | .mem m => m.len

/-- LEN of an instruction with this operand (R89: mode `acc` has LEN 1). -/
def Target.len : Target → Nat
  | .acc => 1
  | .mem m => m.len

/-- LEN of an instruction (R81, R84). BRK has LEN 1 (90_conflicts.md C1, log 16). -/
def Instr.len : Instr → Nat
  | .adc s | .and s | .bit s | .cmp s | .cpx s | .cpy s | .eor s | .lda s | .ldx s | .ldy s | .ora s | .sbc s => s.len
  | .asl t | .dec t | .inc t | .lsr t | .rol t | .ror t => t.len
  | .sta m | .stx m | .sty m | .stz m | .trb m | .tsb m => m.len
  | .bbr0 .. | .bbr1 .. | .bbr2 .. | .bbr3 .. | .bbr4 .. | .bbr5 .. | .bbr6 .. | .bbr7 .. => 3
  | .bbs0 .. | .bbs1 .. | .bbs2 .. | .bbs3 .. | .bbs4 .. | .bbs5 .. | .bbs6 .. | .bbs7 .. => 3
  | .bpl _ | .bmi _ | .bvc _ | .bvs _ | .bra _ | .bcc _ | .bcs _ | .bne _ | .beq _ => 2
  | .rmb0 _ | .rmb1 _ | .rmb2 _ | .rmb3 _ | .rmb4 _ | .rmb5 _ | .rmb6 _ | .rmb7 _ => 2
  | .smb0 _ | .smb1 _ | .smb2 _ | .smb3 _ | .smb4 _ | .smb5 _ | .smb6 _ | .smb7 _ => 2
  | .jmp _ | .jsr _ | .nop3 .. => 3
  | .nop2 .. => 2
  | .brk | .clc | .cld | .cli | .clv | .sec | .sed | .sei | .dex | .dey | .inx | .iny | .nop | .nop1 _ => 1
  | .pha | .php | .phx | .phy | .pla | .plp | .plx | .ply | .rti | .rts | .stp | .wai => 1
  | .tax | .tay | .tsx | .txa | .tya | .txs => 1

/-- One row of R105: the opcode byte of each form a mnemonic has; `none` where it has no such form. -/
structure Forms where
  acc  : Option Byte := none
  imm  : Option Byte := none
  zp   : Option Byte := none
  zpX  : Option Byte := none
  zpY  : Option Byte := none
  abs  : Option Byte := none
  absX : Option Byte := none
  absY : Option Byte := none
  indX : Option Byte := none
  indY : Option Byte := none
  ind  : Option Byte := none

/-- ADC (R105, R120). -/
def adcForms : Forms :=
  { imm := some 0x69, zp := some 0x65, zpX := some 0x75, abs := some 0x6D, absX := some 0x7D, absY := some 0x79,
    indX := some 0x61, indY := some 0x71, ind := some 0x72 }

/-- AND (R105, R123). -/
def andForms : Forms :=
  { imm := some 0x29, zp := some 0x25, zpX := some 0x35, abs := some 0x2D, absX := some 0x3D, absY := some 0x39,
    indX := some 0x21, indY := some 0x31, ind := some 0x32 }

/-- BIT (R105, R150). -/
def bitForms : Forms :=
  { imm := some 0x89, zp := some 0x24, zpX := some 0x34, abs := some 0x2C, absX := some 0x3C }

/-- CMP (R105, R171). -/
def cmpForms : Forms :=
  { imm := some 0xC9, zp := some 0xC5, zpX := some 0xD5, abs := some 0xCD, absX := some 0xDD, absY := some 0xD9,
    indX := some 0xC1, indY := some 0xD1, ind := some 0xD2 }

/-- CPX (R105, R172). -/
def cpxForms : Forms :=
  { imm := some 0xE0, zp := some 0xE4, abs := some 0xEC }

/-- CPY (R105, R173). -/
def cpyForms : Forms :=
  { imm := some 0xC0, zp := some 0xC4, abs := some 0xCC }

/-- EOR (R105, R177). -/
def eorForms : Forms :=
  { imm := some 0x49, zp := some 0x45, zpX := some 0x55, abs := some 0x4D, absX := some 0x5D, absY := some 0x59,
    indX := some 0x41, indY := some 0x51, ind := some 0x52 }

/-- LDA (R105, R194). -/
def ldaForms : Forms :=
  { imm := some 0xA9, zp := some 0xA5, zpX := some 0xB5, abs := some 0xAD, absX := some 0xBD, absY := some 0xB9,
    indX := some 0xA1, indY := some 0xB1, ind := some 0xB2 }

/-- LDX (R105, R195). -/
def ldxForms : Forms :=
  { imm := some 0xA2, zp := some 0xA6, zpY := some 0xB6, abs := some 0xAE, absY := some 0xBE }

/-- LDY (R105, R196). -/
def ldyForms : Forms :=
  { imm := some 0xA0, zp := some 0xA4, zpX := some 0xB4, abs := some 0xAC, absX := some 0xBC }

/-- ORA (R105, R219). -/
def oraForms : Forms :=
  { imm := some 0x09, zp := some 0x05, zpX := some 0x15, abs := some 0x0D, absX := some 0x1D, absY := some 0x19,
    indX := some 0x01, indY := some 0x11, ind := some 0x12 }

/-- SBC (R105, R253). -/
def sbcForms : Forms :=
  { imm := some 0xE9, zp := some 0xE5, zpX := some 0xF5, abs := some 0xED, absX := some 0xFD, absY := some 0xF9,
    indX := some 0xE1, indY := some 0xF1, ind := some 0xF2 }

/-- ASL (R105, R124). -/
def aslForms : Forms :=
  { acc := some 0x0A, zp := some 0x06, zpX := some 0x16, abs := some 0x0E, absX := some 0x1E }

/-- DEC (R105, R174). -/
def decForms : Forms :=
  { acc := some 0x3A, zp := some 0xC6, zpX := some 0xD6, abs := some 0xCE, absX := some 0xDE }

/-- INC (R105, R178). -/
def incForms : Forms :=
  { acc := some 0x1A, zp := some 0xE6, zpX := some 0xF6, abs := some 0xEE, absX := some 0xFE }

/-- LSR (R105, R210). -/
def lsrForms : Forms :=
  { acc := some 0x4A, zp := some 0x46, zpX := some 0x56, abs := some 0x4E, absX := some 0x5E }

/-- ROL (R105, R239). -/
def rolForms : Forms :=
  { acc := some 0x2A, zp := some 0x26, zpX := some 0x36, abs := some 0x2E, absX := some 0x3E }

/-- ROR (R105, R240). -/
def rorForms : Forms :=
  { acc := some 0x6A, zp := some 0x66, zpX := some 0x76, abs := some 0x6E, absX := some 0x7E }

/-- STA (R105, R265). -/
def staForms : Forms :=
  { zp := some 0x85, zpX := some 0x95, abs := some 0x8D, absX := some 0x9D, absY := some 0x99, indX := some 0x81,
    indY := some 0x91, ind := some 0x92 }

/-- STX (R105, R271). -/
def stxForms : Forms :=
  { zp := some 0x86, zpY := some 0x96, abs := some 0x8E }

/-- STY (R105, R272). -/
def styForms : Forms :=
  { zp := some 0x84, zpX := some 0x94, abs := some 0x8C }

/-- STZ (R105, R273). -/
def stzForms : Forms :=
  { zp := some 0x64, zpX := some 0x74, abs := some 0x9C, absX := some 0x9E }

/-- TRB (R105, R287). -/
def trbForms : Forms :=
  { zp := some 0x14, abs := some 0x1C }

/-- TSB (R105, R288). -/
def tsbForms : Forms :=
  { zp := some 0x04, abs := some 0x0C }

/-- An opcode byte, if the form exists, and the operand bytes after it; no bytes where it does not. -/
def encodeForm (op : Option Byte) (operands : List Byte) : List Byte :=
  match op with
  | some o => o :: operands
  | none => []

/-- The bytes of an instruction with a memory operand (R81): the zero-page byte, or the address low byte first. -/
def AddrMode.encodeWith (f : Forms) : AddrMode → List Byte
  | .zp z => encodeForm f.zp [z]
  | .zpX z => encodeForm f.zpX [z]
  | .zpY z => encodeForm f.zpY [z]
  | .abs a => encodeForm f.abs [lo a, hi a]
  | .absX a => encodeForm f.absX [lo a, hi a]
  | .absY a => encodeForm f.absY [lo a, hi a]
  | .indX z => encodeForm f.indX [z]
  | .indY z => encodeForm f.indY [z]
  | .ind z => encodeForm f.ind [z]

/-- The bytes of an instruction with an immediate or a memory operand. -/
def Source.encodeWith (f : Forms) : Source → List Byte
  | .imm b => encodeForm f.imm [b]
  | .mem m => m.encodeWith f

/-- The bytes of a read-modify-write instruction. -/
def Target.encodeWith (f : Forms) : Target → List Byte
  | .acc => encodeForm f.acc []
  | .mem m => m.encodeWith f

/-- `RMB n` is opcode `(n << 4) | $07` (R82). -/
def rmbOpcode (n : Nat) : Byte := BitVec.ofNat 8 (n * 16 + 0x07)

/-- `SMB n` is opcode `$80 | (n << 4) | $07` (R82). -/
def smbOpcode (n : Nat) : Byte := BitVec.ofNat 8 (0x80 + n * 16 + 0x07)

/-- `BBR n` is opcode `(n << 4) | $0F` (R82). -/
def bbrOpcode (n : Nat) : Byte := BitVec.ofNat 8 (n * 16 + 0x0F)

/-- `BBS n` is opcode `$80 | (n << 4) | $0F` (R82). -/
def bbsOpcode (n : Nat) : Byte := BitVec.ofNat 8 (0x80 + n * 16 + 0x0F)

/-- The bytes of a well-formed instruction, in memory order (R81, R105); no bytes for a term that is no instruction. -/
def encode : Instr → List Byte
  | .adc s => s.encodeWith adcForms
  | .and s => s.encodeWith andForms
  | .asl t => t.encodeWith aslForms
  | .bbr0 z off => [bbrOpcode 0, z, off]
  | .bbr1 z off => [bbrOpcode 1, z, off]
  | .bbr2 z off => [bbrOpcode 2, z, off]
  | .bbr3 z off => [bbrOpcode 3, z, off]
  | .bbr4 z off => [bbrOpcode 4, z, off]
  | .bbr5 z off => [bbrOpcode 5, z, off]
  | .bbr6 z off => [bbrOpcode 6, z, off]
  | .bbr7 z off => [bbrOpcode 7, z, off]
  | .bbs0 z off => [bbsOpcode 0, z, off]
  | .bbs1 z off => [bbsOpcode 1, z, off]
  | .bbs2 z off => [bbsOpcode 2, z, off]
  | .bbs3 z off => [bbsOpcode 3, z, off]
  | .bbs4 z off => [bbsOpcode 4, z, off]
  | .bbs5 z off => [bbsOpcode 5, z, off]
  | .bbs6 z off => [bbsOpcode 6, z, off]
  | .bbs7 z off => [bbsOpcode 7, z, off]
  | .bpl off => [0x10, off]
  | .bmi off => [0x30, off]
  | .bvc off => [0x50, off]
  | .bvs off => [0x70, off]
  | .bra off => [0x80, off]
  | .bcc off => [0x90, off]
  | .bcs off => [0xB0, off]
  | .bne off => [0xD0, off]
  | .beq off => [0xF0, off]
  | .bit s => s.encodeWith bitForms
  | .brk => [0x00]
  | .clc => [0x18]
  | .cld => [0xD8]
  | .cli => [0x58]
  | .clv => [0xB8]
  | .sec => [0x38]
  | .sed => [0xF8]
  | .sei => [0x78]
  | .cmp s => s.encodeWith cmpForms
  | .cpx s => s.encodeWith cpxForms
  | .cpy s => s.encodeWith cpyForms
  | .dec t => t.encodeWith decForms
  | .dex => [0xCA]
  | .dey => [0x88]
  | .eor s => s.encodeWith eorForms
  | .inc t => t.encodeWith incForms
  | .inx => [0xE8]
  | .iny => [0xC8]
  | .jmp (.abs a) => [0x4C, lo a, hi a]
  | .jmp (.ind a) => [0x6C, lo a, hi a]
  | .jmp (.indX a) => [0x7C, lo a, hi a]
  | .jsr a => [0x20, lo a, hi a]
  | .lda s => s.encodeWith ldaForms
  | .ldx s => s.encodeWith ldxForms
  | .ldy s => s.encodeWith ldyForms
  | .lsr t => t.encodeWith lsrForms
  | .nop => [0xEA]
  | .nop1 op => if isNop1 op then [op] else []
  | .nop2 op b1 => if isNop2 op then [op, b1] else []
  | .nop3 op b1 b2 => if isNop3 op then [op, b1, b2] else []
  | .ora s => s.encodeWith oraForms
  | .pha => [0x48]
  | .php => [0x08]
  | .phx => [0xDA]
  | .phy => [0x5A]
  | .pla => [0x68]
  | .plp => [0x28]
  | .plx => [0xFA]
  | .ply => [0x7A]
  | .rmb0 z => [rmbOpcode 0, z]
  | .rmb1 z => [rmbOpcode 1, z]
  | .rmb2 z => [rmbOpcode 2, z]
  | .rmb3 z => [rmbOpcode 3, z]
  | .rmb4 z => [rmbOpcode 4, z]
  | .rmb5 z => [rmbOpcode 5, z]
  | .rmb6 z => [rmbOpcode 6, z]
  | .rmb7 z => [rmbOpcode 7, z]
  | .rol t => t.encodeWith rolForms
  | .ror t => t.encodeWith rorForms
  | .rti => [0x40]
  | .rts => [0x60]
  | .sbc s => s.encodeWith sbcForms
  | .smb0 z => [smbOpcode 0, z]
  | .smb1 z => [smbOpcode 1, z]
  | .smb2 z => [smbOpcode 2, z]
  | .smb3 z => [smbOpcode 3, z]
  | .smb4 z => [smbOpcode 4, z]
  | .smb5 z => [smbOpcode 5, z]
  | .smb6 z => [smbOpcode 6, z]
  | .smb7 z => [smbOpcode 7, z]
  | .sta m => m.encodeWith staForms
  | .stp => [0xDB]
  | .stx m => m.encodeWith stxForms
  | .sty m => m.encodeWith styForms
  | .stz m => m.encodeWith stzForms
  | .tax => [0xAA]
  | .tay => [0xA8]
  | .tsx => [0xBA]
  | .txa => [0x8A]
  | .tya => [0x98]
  | .txs => [0x9A]
  | .trb m => m.encodeWith trbForms
  | .tsb m => m.encodeWith tsbForms
  | .wai => [0xCB]

end Sys2Proof
end

