-- ==== Sys2Proof/Config.lean ====
section
/-! DEFINITION. What the spec fixes for this hardware (R4), the types of its named parameters (R5), and the free
values: constants with no body, about which nothing can be proved but what the spec says where they are used. -/

namespace Sys2Proof

/-- What stands at an address (R58): the four answers of the parameter `Platform.region`. -/
inductive RegionKind where
  /-- A read returns the byte last written, a write replaces it. -/
  | ram
  /-- A read returns the platform image's byte, a write has no effect. -/
  | rom
  /-- A device answers reads and takes writes (R59). -/
  | io
  /-- Nothing is there: a read returns any value, a write has no effect. -/
  | unmapped
  deriving DecidableEq, Repr

/-- One row of the platform's memory map: the addresses `first` to `last`, both included. DESIGN CHOICE (log 5). -/
structure Region where
  first : Word
  last  : Word
  kind  : RegionKind
  deriving DecidableEq, Repr

/-- The three inputs at one instruction boundary (R304). -/
structure Lines where
  /-- `resb_asserted`: the reset input is active. -/
  resb    : Bool
  /-- `nmi_edge`: the NMI input fell at least once since the boundary before. -/
  nmiEdge : Bool
  /-- `irqb_low`: the IRQ input is low, that is asserted, at this boundary. -/
  irqLow  : Bool
  deriving DecidableEq, Repr

/-- No input active. -/
def Lines.quiet : Lines := { resb := false, nmiEdge := false, irqLow := false }

/-- One access to an IO address: the `history` that `Platform.io_read` is given, and the bytes handed to
`Platform.io_write` (R59). -/
inductive IoEvent where
  | read  (addr : Word)
  | write (addr : Word) (value : Byte)
  deriving DecidableEq, Repr

/-- The result of an addition or subtraction: the byte, the new C and the new V (R121, R122, R254). -/
structure AluResult where
  r : Byte
  c : Bool
  v : Bool
  deriving DecidableEq, Repr, Inhabited

/-- What reset leaves in the registers and flags whose reset value is unspecified (R342). -/
structure ResetDraw where
  a  : Byte
  x  : Byte
  y  : Byte
  sp : Byte
  n  : Bool
  v  : Bool
  z  : Bool
  c  : Bool
  deriving DecidableEq, Repr, Inhabited

namespace Config

/-- The address of the NMI vector (R4, R65). -/
def nmiVector : Word := 0xFFFA#16

/-- The address of the reset vector (R4, R65). -/
def resetVector : Word := 0xFFFC#16

/-- The address of the vector shared by IRQ and BRK (R4, R65). -/
def irqVector : Word := 0xFFFE#16

/-- What a memory byte reads as when nothing has written it (R58, R343: any value). DESIGN CHOICE, unsafe (log 1). -/
def unlistedByte : Byte := 0x00#8

/-- `Platform.io_read(addr, history)` (R59): the answer of the device at an address after a history of IO accesses,
newest first. A free value (log 6). -/
opaque ioRead : Word → List IoEvent → Byte

/-- What a read of an Unmapped address returns (R58): any value. A free value, one for each index (log 7). -/
opaque unmappedRead : Nat → Byte

/-- `ResetDraw` (R342): any value at each reset sequence. A free value, one for each index (log 9). -/
opaque resetDraw : Nat → ResetDraw

/-- `DecimalModel.adc(a, m, c)` (R122): V of every decimal addition, and all of the result where an operand is not valid
BCD. A free value, a function of the operands (log 10). -/
opaque decimalAdc : Byte → Byte → Bool → AluResult

/-- `DecimalModel.sbc(a, m, c)` (R254), as `decimalAdc` for the decimal subtraction (log 10). -/
opaque decimalSbc : Byte → Byte → Bool → AluResult

end Config

end Sys2Proof
end

