-- ==== Sys2Proof/Machine/State.lean ====
section
/-! DEFINITION. The state of the machine as plain data (R39), the state after reset (R41), and the reasons a step can
stop. -/

namespace Sys2Proof.Machine

/-- The run state (R37). -/
inductive RunState where
  /-- The processor fetches and executes. -/
  | running
  /-- Entered by WAI: nothing executes until an interrupt or reset arrives (R313). -/
  | waiting
  /-- Entered by STP: nothing executes until reset (R314). -/
  | stopped
  deriving DecidableEq, Repr

/-- Memory: the bytes that were written, by rising address, none of them equal to what an unlisted byte reads as. -/
abbrev Memory := List Host.Cell

/-- The state of the machine (R39), with the parameters of R5 that are held as data (logs 4, 5, 6), the cycle counter of
R354 (log 17), and the index of the next free value (log 22). B and bit 5 of SR are not stored (R27, R28). -/
structure State where
  /-- A, the accumulator (R20). -/
  a : Byte
  /-- X, index register (R21). -/
  x : Byte
  /-- Y, index register (R22). -/
  y : Byte
  /-- SP, the stack pointer; the address it denotes is `$0100 + SP` (R23, R60). -/
  sp : Byte
  /-- PC: between instructions, the address of the next opcode byte (R35). -/
  pc : Word
  /-- N, bit 7 of SR (R25). -/
  n : Bool
  /-- V, bit 6 of SR (R26). -/
  v : Bool
  /-- D, bit 3 of SR: decimal mode (R29). -/
  d : Bool
  /-- I, bit 2 of SR: IRQ disable (R30). -/
  i : Bool
  /-- Z, bit 1 of SR (R31). -/
  z : Bool
  /-- C, bit 0 of SR (R32). -/
  c : Bool
  /-- The run state (R37). -/
  run : RunState
  /-- The NMI-pending latch (R38). -/
  nmiPending : Bool
  /-- RAM contents and ROM image (R50, R343). -/
  mem : Memory
  /-- `Platform.region` (R58): the first range that holds an address says what stands there; RAM where none does. -/
  regions : List Region
  /-- `Env.lines` at the coming boundaries (R304), the next one first; no input active past its end. -/
  inputs : List Lines
  /-- The accesses to IO addresses made so far, newest first (R59). -/
  ioLog : List IoEvent
  /-- The index of the next free value: the model's own field. -/
  draws : Nat
  /-- The cycle counter (R354); no instruction reads it. -/
  cycles : Nat
  deriving DecidableEq, Repr

/-- Why the machine stops with a fault: never. The spec gives the machine no fault (R14, R301), so no constructor
exists and nothing raises one; neither safe nor unsafe. -/
inductive Fault
  deriving DecidableEq, Repr

/-- Why a step has no meaning. -/
inductive Refusal where
  /-- An instruction that has no meaning in this model yet; raised by an arm of `exec`. Safe: no claim about the
  instruction can be proved. No arm raises it. -/
  | notModelled (mnemonic : String)
  /-- An opcode or operand byte lies at an IO address; raised by the fetch. Safe: R58 says a model should refuse rather
  than pick a value (log 8). -/
  | fetchFromIo
  /-- An opcode or operand byte lies at an Unmapped address; raised by the fetch. Safe, as `fetchFromIo` (R58, log 8). -/
  | fetchFromUnmapped
  deriving DecidableEq, Repr

/-- The machine right after reset (R41): I = 1, D = 0, Running, the NMI latch clear, and PC = Read16($FFFC) of a memory
with nothing listed (log 3). A, X, Y, SP, N, V, Z, C are zero: DESIGN CHOICE, unsafe (log 2). Nothing is listed in
memory (log 1), every address is RAM (log 5), no input is active (log 4), no IO access was made (log 6). -/
def State.reset : State :=
  { a := 0x00#8, x := 0x00#8, y := 0x00#8, sp := 0x00#8, pc := 0x0000#16,
    n := false, v := false, d := false, i := true, z := false, c := false,
    run := .running, nmiPending := false, mem := [],
    regions := [], inputs := [], ioLog := [], draws := 0, cycles := 0 }

end Sys2Proof.Machine
end

