-- ==== Sys2Proof/Machine/Flags.lean ====
section
/-! DEFINITION. The flag computations: N and Z of a result (R33), the stacked image of SR and its inverse (R34), the
adder (R121), decimal addition and subtraction (R122, R254), the compare (R170). -/

namespace Sys2Proof.Machine

/-- `SetNZ(v)` (R33): N is bit 7 of the result, Z is 1 exactly when the result is zero. -/
def State.setNZ (v : Byte) (s : State) : State :=
  { s with n := v.getLsbD 7, z := v == 0 }

/-- `SRimage(brk)` (R34): `N ++ V ++ 1 ++ brk ++ D ++ I ++ Z ++ C`, bit 7 down to bit 0. -/
def State.srImage (brk : Bool) (s : State) : Byte :=
  BitVec.ofBool s.n ++ BitVec.ofBool s.v ++ BitVec.ofBool true ++ BitVec.ofBool brk ++
    BitVec.ofBool s.d ++ BitVec.ofBool s.i ++ BitVec.ofBool s.z ++ BitVec.ofBool s.c

/-- `SRload(v)` (R34): the six stored flags from a byte; bits 5 and 4 are ignored. -/
def State.srLoad (v : Byte) (s : State) : State :=
  { s with n := v.getLsbD 7, v := v.getLsbD 6, d := v.getLsbD 3, i := v.getLsbD 2, z := v.getLsbD 1, c := v.getLsbD 0 }

/-- `AddBinary(a, m, c)` (R121): the sum modulo 256, the carry out, and V, set when `a` and `m` have the same sign and
the result has the other. -/
def addBinary (a m : Byte) (c : Bool) : AluResult :=
  let t := a.toNat + m.toNat + b2n c
  let r : Byte := BitVec.ofNat 8 t
  { r := r, c := decide (255 < t), v := a.getLsbD 7 == m.getLsbD 7 && r.getLsbD 7 != a.getLsbD 7 }

/-- A byte is valid BCD when both its nibbles are in 0..9 (R122). -/
def validBcd (b : Byte) : Bool :=
  decide (b.toNat / 16 ≤ 9) && decide (b.toNat % 16 ≤ 9)

/-- `val(b) = 10 * b[7:4] + b[3:0]` (R122). -/
def bcdVal (b : Byte) : Nat :=
  10 * (b.toNat / 16) + b.toNat % 16

/-- `bcd(n) = (n div 10) ++ (n mod 10)`, for n in 0..99 (R122). -/
def bcdByte (n : Nat) : Byte :=
  BitVec.ofNat 8 (16 * (n / 10) + n % 10)

/-- `AddDecimal(a, m, c)` (R122). For valid BCD operands the result and the carry are those of the decimal sum; V, and
everything for other operands, is free (log 10). -/
def addDecimal (a m : Byte) (c : Bool) : AluResult :=
  let free := Config.decimalAdc a m c
  if validBcd a && validBcd m then
    let t := bcdVal a + bcdVal m + b2n c
    { r := bcdByte (t % 100), c := decide (100 ≤ t), v := free.v }
  else free

/-- `SubDecimal(a, m, c)` (R254). For valid BCD operands the result and the borrow are those of the decimal difference
`val(a) - val(m) - (1 - c)`, C being 1 when there is no borrow; V, and everything for other operands, is free
(log 10). -/
def subDecimal (a m : Byte) (c : Bool) : AluResult :=
  let free := Config.decimalSbc a m c
  if validBcd a && validBcd m then
    let owed := bcdVal m + b2n (!c)
    if owed ≤ bcdVal a then { r := bcdByte (bcdVal a - owed), c := true, v := free.v }
    else { r := bcdByte (bcdVal a + 100 - owed), c := false, v := free.v }
  else free

/-- The result of ADC (R120): binary or decimal by D. -/
def adcResult (m : Byte) (s : State) : AluResult :=
  if s.d then addDecimal s.a m s.c else addBinary s.a m s.c

/-- The result of SBC (R253): the adder with the operand complemented, or the decimal difference, by D. -/
def sbcResult (m : Byte) (s : State) : AluResult :=
  if s.d then subDecimal s.a m s.c else addBinary s.a (~~~m) s.c

/-- The result of an ADC or SBC assigned to A, C and V, then N and Z of the new A (R120, R253). -/
def State.setAlu (q : AluResult) (s : State) : State :=
  State.setNZ q.r { s with a := q.r, c := q.c, v := q.v }

/-- `Compare(r, m)` (R170): C when `r >= m` unsigned, Z when equal, N bit 7 of the difference. V is untouched. -/
def State.setCompare (r m : Byte) (s : State) : State :=
  { s with c := decide (m.toNat ≤ r.toNat), z := r == m, n := (r - m).getLsbD 7 }

/-- Z of a bit test (R150, R287, R288): 1 when `A & m` is zero. -/
def State.setTest (m : Byte) (s : State) : State :=
  { s with z := s.a &&& m == 0 }

/-- A byte with only bit `n` set: `1 << n` (R238). -/
def bitMask (n : Nat) : Byte := 1#8 <<< n

/-! The shifts and rotates: the result byte and the new C, from the byte and the old C (R124, R210, R239, R240). -/

/-- ASL (R124): `C <- [76543210] <- 0`. -/
def shiftLeft (v : Byte) (_c : Bool) : Byte × Bool :=
  (v <<< 1, v.getLsbD 7)

/-- LSR (R210): `0 -> [76543210] -> C`. -/
def shiftRight (v : Byte) (_c : Bool) : Byte × Bool :=
  (v >>> 1, v.getLsbD 0)

/-- ROL (R239): `C <- [76543210] <- C`. -/
def rotateLeft (v : Byte) (c : Bool) : Byte × Bool :=
  (v.extractLsb' 0 7 ++ BitVec.ofBool c, v.getLsbD 7)

/-- ROR (R240): `C -> [76543210] -> C`. -/
def rotateRight (v : Byte) (c : Bool) : Byte × Bool :=
  (BitVec.ofBool c ++ v.extractLsb' 1 7, v.getLsbD 0)

/-- INC (R178): plus 1 modulo 256; C is kept. -/
def increment (v : Byte) (c : Bool) : Byte × Bool :=
  (v + 1, c)

/-- DEC (R174): minus 1 modulo 256; C is kept. -/
def decrement (v : Byte) (c : Bool) : Byte × Bool :=
  (v - 1, c)

end Sys2Proof.Machine
end

