-- ==== Sys2Proof/Machine/Ops.lean ====
section
/-! DEFINITION. The operations over memory and registers that the meanings share: one byte of memory (R54, R58, R59), 16-bit
reads (R56, R57), the stack (R60 to R64), the advance of PC (R36), taking an interrupt (R306) and returning from one
(R311), and the reset sequence (R341). -/

namespace Sys2Proof.Machine

/-! ### Memory as data -/

/-- The byte at an address: the listed one, or what an unlisted byte reads as. -/
def Memory.read (m : Memory) (a : Nat) : Byte :=
  match m with
  | [] => Config.unlistedByte
  | (b, w) :: rest => if a = b then w else Memory.read rest a

/-- The memory with one more cell in front, unless its byte is what an unlisted byte reads as. -/
def Memory.put (a : Nat) (w : Byte) (rest : Memory) : Memory :=
  if w = Config.unlistedByte then rest else (a, w) :: rest

/-- The memory with the byte at an address replaced, in canonical form again. -/
def Memory.write (m : Memory) (a : Nat) (w : Byte) : Memory :=
  match m with
  | [] => Memory.put a w []
  | (b, u) :: rest =>
    if a < b then Memory.put a w ((b, u) :: rest)
    else if a = b then Memory.put a w rest
    else (b, u) :: Memory.write rest a w

/-- Every listed address is at least `from` and below 65536, the addresses rise strictly, and no listed byte is what an
unlisted byte reads as. -/
def Memory.wfFrom (start : Nat) : Memory → Bool
  | [] => true
  | (a, w) :: rest => decide (start ≤ a) && decide (a < 65536) && w != Config.unlistedByte && Memory.wfFrom (a + 1) rest

/-- The canonical form of a memory. -/
def Memory.wf (m : Memory) : Bool := Memory.wfFrom 0 m

/-! ### One byte of memory, as the processor sees it -/

/-- `Platform.region(addr)` (R58): the kind of the first range of the map that holds the address; RAM where none does. -/
def regionAt (map : List Region) (a : Word) : RegionKind :=
  match map with
  | [] => .ram
  | g :: rest => if g.first.toNat ≤ a.toNat ∧ a.toNat ≤ g.last.toNat then g.kind else regionAt rest a

/-- What stands at an address in this state. -/
def State.region (a : Word) (s : State) : RegionKind := regionAt s.regions a

/-- The byte stored at an address, without any access: what RAM holds and what the ROM image holds. -/
def State.peek (a : Word) (s : State) : Byte := s.mem.read a.toNat

/-- `MemRead(addr, 1)` (R8, R58, R59): the byte read and the state after the read. A read of IO is answered by the device
and recorded; a read of Unmapped gives a free value. -/
def State.load (a : Word) (s : State) : Byte × State :=
  match s.region a with
  | .ram => (s.peek a, s)
  | .rom => (s.peek a, s)
  | .io => (Config.ioRead a s.ioLog, { s with ioLog := .read a :: s.ioLog })
  | .unmapped => (Config.unmappedRead s.draws, { s with draws := s.draws + 1 })

/-- `MemWrite(addr, 1, v)` (R8, R58, R59): RAM takes the byte, ROM and Unmapped drop it, IO is handed it. -/
def State.store (a : Word) (v : Byte) (s : State) : State :=
  match s.region a with
  | .ram => { s with mem := s.mem.write a.toNat v }
  | .rom => s
  | .io => { s with ioLog := .write a v :: s.ioLog }
  | .unmapped => s

/-- `Read16(a)` (R56): low byte first, the successor address modulo 65536. -/
def State.read16 (a : Word) (s : State) : Word × State :=
  let l := s.load a
  let h := l.2.load (a + 1)
  (word h.1 l.1, h.2)

/-- `Read16zp(z)` (R57): low byte first, the successor address modulo 256. -/
def State.read16zp (z : Byte) (s : State) : Word × State :=
  let l := s.load (zext z)
  let h := l.2.load (zext (z + 1))
  (word h.1 l.1, h.2)

/-! ### The stack -/

/-- The address of the byte the source calls Ms: `$01 ++ SP` (R60). -/
def stackAddr (sp : Byte) : Word := word 0x01 sp

/-- `Push8(v)` (R61): store at the current SP, then decrement. -/
def State.push8 (v : Byte) (s : State) : State :=
  let t := s.store (stackAddr s.sp) v
  { t with sp := t.sp - 1 }

/-- `Pull8()` (R62): increment SP, then read. -/
def State.pull8 (s : State) : Byte × State :=
  State.load (stackAddr (s.sp + 1)) { s with sp := s.sp + 1 }

/-- `Push16(w)` (R64): high byte first. -/
def State.push16 (w : Word) (s : State) : State :=
  (s.push8 (hi w)).push8 (lo w)

/-- `Pull16()` (R64): low byte first. -/
def State.pull16 (s : State) : Word × State :=
  let l := s.pull8
  let h := l.2.pull8
  (word h.1 l.1, h.2)

/-! ### PC, the run state and the cycle counter -/

/-- `pc <- target`. -/
def State.jump (target : Word) (s : State) : State := { s with pc := target }

/-- `pc <- addr_i +16 len` (R36). -/
def State.advance (len : Nat) (s : State) : State := s.jump (s.pc + BitVec.ofNat 16 len)

/-- `run_state <- r`. -/
def State.setRun (r : RunState) (s : State) : State := { s with run := r }

/-- The cycle counter plus `k` (R354). -/
def State.tick (k : Nat) (s : State) : State := { s with cycles := s.cycles + k }

/-! ### Interrupts, return from interrupt, reset -/

/-- `Interrupt(vector, brk)` (R306), with PC the return address: PC and the SR image are pushed, then I is set and D
cleared, PC is loaded from the vector, and the processor runs. -/
def State.interrupt (vector : Word) (brk : Bool) (s : State) : State :=
  let p := s.push16 s.pc
  let q := p.push8 (p.srImage brk)
  let t := State.read16 vector { q with i := true, d := false }
  (t.2.jump t.1).setRun .running

/-- Return from interrupt (R250, R311): the flags are pulled first, then the address, which is taken as it is. -/
def State.returnFromInterrupt (s : State) : State :=
  let f := s.pull8
  let p := (f.2.srLoad f.1).pull16
  p.2.jump p.1

/-- The registers and flags whose value after reset is unspecified (R342), as a draw says. -/
def State.setDraw (w : ResetDraw) (s : State) : State :=
  { s with a := w.a, x := w.x, y := w.y, sp := w.sp, n := w.n, v := w.v, z := w.z, c := w.c }

/-- `Reset()` (R341): I = 1, D = 0, the NMI latch clear, Running, free values in the other registers and flags (log 9),
PC from the reset vector; memory is not changed and nothing is pushed. -/
def State.takeReset (s : State) : State :=
  let r := State.setDraw (Config.resetDraw s.draws)
    { s with draws := s.draws + 1, i := true, d := false, nmiPending := false, run := .running }
  let t := r.read16 Config.resetVector
  t.2.jump t.1

end Sys2Proof.Machine
end

