-- ==== Sys2Proof/Machine/Operands.lean ====
section
/-! DEFINITION. The operand forms (R89 to R104): the effective address of a mode, reading an operand, the place of a
read-modify-write operand, and the shapes of instruction that the meanings share. -/

namespace Sys2Proof.Machine

/-- `EA(mode)` (R91 to R99): the effective address, and the state after the pointer reads that form it. -/
def effAddr (m : AddrMode) (s : State) : Word × State :=
  match m with
  | .zp z => (zext z, s)
  | .zpX z => (zext (z + s.x), s)
  | .zpY z => (zext (z + s.y), s)
  | .abs a => (a, s)
  | .absX a => (a + zext s.x, s)
  | .absY a => (a + zext s.y, s)
  | .indX z => s.read16zp (z + s.x)
  | .indY z =>
    let p := s.read16zp z
    (p.1 + zext s.y, p.2)
  | .ind z => s.read16zp z

/-- The byte at the effective address of a mode, and the state after it is read (R104). -/
def loadMem (m : AddrMode) (s : State) : Byte × State :=
  let e := effAddr m s
  e.2.load e.1

/-- `Operand(mode)` for a form that is only read (R104). -/
def operand (src : Source) (s : State) : Byte × State :=
  match src with
  | .imm b => (b, s)
  | .mem m => loadMem m s

/-- Where a read-modify-write operand stands: register A, or an address. -/
inductive Place where
  | acc
  | addr (a : Word)
  deriving DecidableEq, Repr

/-- The place of a read-modify-write operand: the effective address is computed once (R104). -/
def placeOf (t : Target) (s : State) : Place × State :=
  match t with
  | .acc => (.acc, s)
  | .mem m =>
    let e := effAddr m s
    (.addr e.1, e.2)

/-- The byte at a place (R104). -/
def readPlace (p : Place) (s : State) : Byte × State :=
  match p with
  | .acc => (s.a, s)
  | .addr a => s.load a

/-- `Store(mode, v)` (R104). -/
def writePlace (p : Place) (v : Byte) (s : State) : State :=
  match p with
  | .acc => { s with a := v }
  | .addr a => s.store a v

/-- The shape of ASL, LSR, ROL, ROR, INC, DEC: one read, the result and C by `f`, one write, then N and Z. -/
def modifyOperand (f : Byte → Bool → Byte × Bool) (t : Target) (s : State) : Host.Outcome State Fault Refusal :=
  let p := placeOf t s
  let u := readPlace p.1 p.2
  let q := f u.1 u.2.c
  .next (((writePlace p.1 q.1 { u.2 with c := q.2 }).setNZ q.1).advance t.len)

/-- The shape of an instruction that reads its operand and does something with the byte. -/
def withOperand (src : Source) (f : Byte → State → State) (s : State) : Host.Outcome State Fault Refusal :=
  let u := operand src s
  .next ((f u.1 u.2).advance src.len)

/-- The shape of a store: one write at the effective address, no read of it, no flags (R104). -/
def storeMem (m : AddrMode) (v : Byte) (s : State) : Host.Outcome State Fault Refusal :=
  let e := effAddr m s
  .next ((e.2.store e.1 v).advance m.len)

/-- The shape of RMB, SMB, TRB, TSB: one read at the effective address, Z from the bit test if `test`, one write of the
result. -/
def modifyBits (m : AddrMode) (test : Bool) (f : Byte → Byte) (s : State) : Host.Outcome State Fault Refusal :=
  let e := effAddr m s
  let u := e.2.load e.1
  let w := if test then u.2.setTest u.1 else u.2
  .next ((w.store e.1 (f u.1)).advance m.len)

/-- The shape of the one-byte instructions on registers and flags. -/
def implied (f : State → State) (s : State) : Host.Outcome State Fault Refusal :=
  .next ((f s).advance 1)

/-- `BranchIf(cond, off, next)` (R130), `len` being the length of the branch: the offset is signed and counted from the
next instruction. -/
def branchIf (cond : Bool) (off : Byte) (len : Nat) (s : State) : State :=
  if cond then (s.advance len).jump ((s.advance len).pc + sext off) else s.advance len

/-- The shape of BBR and BBS (R131, R132): the branch is taken when bit `n` of the zero-page byte is `want`. -/
def branchOnBit (n : Nat) (want : Bool) (z off : Byte) (s : State) : Host.Outcome State Fault Refusal :=
  let u := s.load (zext z)
  .next (branchIf (u.1.getLsbD n == want) off 3 u.2)

/-- The shape of the relative branches (R133 to R141). -/
def branch (cond : Bool) (off : Byte) (s : State) : Host.Outcome State Fault Refusal :=
  .next (branchIf cond off 2 s)

end Sys2Proof.Machine
end

