-- ==== Sys2Proof/Machine/Arithmetic.lean ====
section
/-! DEFINITION. The arithmetic instructions: ADC, SBC, the compares, the increments and decrements (spec/40, 43, 47). -/

namespace Sys2Proof.Machine

/-- ADC: `A + M + C -> A, C`, with N, V, Z, C; binary or decimal by D (R120). -/
def execAdc (src : Source) (s : State) : Host.Outcome State Fault Refusal :=
  withOperand src (fun m t => t.setAlu (adcResult m t)) s

/-- SBC: `A - M - (~C) -> A`, with N, V, Z, C; binary or decimal by D (R253). -/
def execSbc (src : Source) (s : State) : Host.Outcome State Fault Refusal :=
  withOperand src (fun m t => t.setAlu (sbcResult m t)) s

/-- CMP: `A - M`; N, Z, C only (R171). -/
def execCmp (src : Source) (s : State) : Host.Outcome State Fault Refusal :=
  withOperand src (fun m t => t.setCompare t.a m) s

/-- CPX: `X - M`; N, Z, C only (R172). -/
def execCpx (src : Source) (s : State) : Host.Outcome State Fault Refusal :=
  withOperand src (fun m t => t.setCompare t.x m) s

/-- CPY: `Y - M`; N, Z, C only (R173). -/
def execCpy (src : Source) (s : State) : Host.Outcome State Fault Refusal :=
  withOperand src (fun m t => t.setCompare t.y m) s

/-- INC: plus 1 modulo 256, in A or in memory; N and Z only (R178). -/
def execInc (t : Target) (s : State) : Host.Outcome State Fault Refusal :=
  modifyOperand increment t s

/-- DEC: minus 1 modulo 256, in A or in memory; N and Z only (R174). -/
def execDec (t : Target) (s : State) : Host.Outcome State Fault Refusal :=
  modifyOperand decrement t s

/-- INX: `X + 1 -> X`; N and Z only (R179). -/
def execInx (s : State) : Host.Outcome State Fault Refusal :=
  implied (fun t => State.setNZ (t.x + 1) { t with x := t.x + 1 }) s

/-- INY: `Y + 1 -> Y`; N and Z only (R180). -/
def execIny (s : State) : Host.Outcome State Fault Refusal :=
  implied (fun t => State.setNZ (t.y + 1) { t with y := t.y + 1 }) s

/-- DEX: `X - 1 -> X`; N and Z only (R175). -/
def execDex (s : State) : Host.Outcome State Fault Refusal :=
  implied (fun t => State.setNZ (t.x - 1) { t with x := t.x - 1 }) s

/-- DEY: `Y - 1 -> Y`; N and Z only (R176). -/
def execDey (s : State) : Host.Outcome State Fault Refusal :=
  implied (fun t => State.setNZ (t.y - 1) { t with y := t.y - 1 }) s

end Sys2Proof.Machine
end

