-- ==== Sys2Proof/Machine/BitMemory.lean ====
section
/-! DEFINITION. The bit instructions on zero page: RMB, SMB, BBR, BBS (spec/41, 46, 47). -/

namespace Sys2Proof.Machine

/-- RMB 0: bit 0 of a zero-page byte is cleared; no flags (R238). -/
def execRmb0 (z : Byte) (s : State) : Host.Outcome State Fault Refusal :=
  modifyBits (.zp z) false (fun u => u &&& ~~~bitMask 0) s

/-- RMB 1: bit 1 of a zero-page byte is cleared; no flags (R238). -/
def execRmb1 (z : Byte) (s : State) : Host.Outcome State Fault Refusal :=
  modifyBits (.zp z) false (fun u => u &&& ~~~bitMask 1) s

/-- RMB 2: bit 2 of a zero-page byte is cleared; no flags (R238). -/
def execRmb2 (z : Byte) (s : State) : Host.Outcome State Fault Refusal :=
  modifyBits (.zp z) false (fun u => u &&& ~~~bitMask 2) s

/-- RMB 3: bit 3 of a zero-page byte is cleared; no flags (R238). -/
def execRmb3 (z : Byte) (s : State) : Host.Outcome State Fault Refusal :=
  modifyBits (.zp z) false (fun u => u &&& ~~~bitMask 3) s

/-- RMB 4: bit 4 of a zero-page byte is cleared; no flags (R238). -/
def execRmb4 (z : Byte) (s : State) : Host.Outcome State Fault Refusal :=
  modifyBits (.zp z) false (fun u => u &&& ~~~bitMask 4) s

/-- RMB 5: bit 5 of a zero-page byte is cleared; no flags (R238). -/
def execRmb5 (z : Byte) (s : State) : Host.Outcome State Fault Refusal :=
  modifyBits (.zp z) false (fun u => u &&& ~~~bitMask 5) s

/-- RMB 6: bit 6 of a zero-page byte is cleared; no flags (R238). -/
def execRmb6 (z : Byte) (s : State) : Host.Outcome State Fault Refusal :=
  modifyBits (.zp z) false (fun u => u &&& ~~~bitMask 6) s

/-- RMB 7: bit 7 of a zero-page byte is cleared; no flags (R238). -/
def execRmb7 (z : Byte) (s : State) : Host.Outcome State Fault Refusal :=
  modifyBits (.zp z) false (fun u => u &&& ~~~bitMask 7) s

/-- SMB 0: bit 0 of a zero-page byte is set; no flags (R255). -/
def execSmb0 (z : Byte) (s : State) : Host.Outcome State Fault Refusal :=
  modifyBits (.zp z) false (fun u => u ||| bitMask 0) s

/-- SMB 1: bit 1 of a zero-page byte is set; no flags (R255). -/
def execSmb1 (z : Byte) (s : State) : Host.Outcome State Fault Refusal :=
  modifyBits (.zp z) false (fun u => u ||| bitMask 1) s

/-- SMB 2: bit 2 of a zero-page byte is set; no flags (R255). -/
def execSmb2 (z : Byte) (s : State) : Host.Outcome State Fault Refusal :=
  modifyBits (.zp z) false (fun u => u ||| bitMask 2) s

/-- SMB 3: bit 3 of a zero-page byte is set; no flags (R255). -/
def execSmb3 (z : Byte) (s : State) : Host.Outcome State Fault Refusal :=
  modifyBits (.zp z) false (fun u => u ||| bitMask 3) s

/-- SMB 4: bit 4 of a zero-page byte is set; no flags (R255). -/
def execSmb4 (z : Byte) (s : State) : Host.Outcome State Fault Refusal :=
  modifyBits (.zp z) false (fun u => u ||| bitMask 4) s

/-- SMB 5: bit 5 of a zero-page byte is set; no flags (R255). -/
def execSmb5 (z : Byte) (s : State) : Host.Outcome State Fault Refusal :=
  modifyBits (.zp z) false (fun u => u ||| bitMask 5) s

/-- SMB 6: bit 6 of a zero-page byte is set; no flags (R255). -/
def execSmb6 (z : Byte) (s : State) : Host.Outcome State Fault Refusal :=
  modifyBits (.zp z) false (fun u => u ||| bitMask 6) s

/-- SMB 7: bit 7 of a zero-page byte is set; no flags (R255). -/
def execSmb7 (z : Byte) (s : State) : Host.Outcome State Fault Refusal :=
  modifyBits (.zp z) false (fun u => u ||| bitMask 7) s

/-- BBR 0: branch if bit 0 of a zero-page byte is 0 (R131). -/
def execBbr0 (z off : Byte) (s : State) : Host.Outcome State Fault Refusal :=
  branchOnBit 0 false z off s

/-- BBR 1: branch if bit 1 of a zero-page byte is 0 (R131). -/
def execBbr1 (z off : Byte) (s : State) : Host.Outcome State Fault Refusal :=
  branchOnBit 1 false z off s

/-- BBR 2: branch if bit 2 of a zero-page byte is 0 (R131). -/
def execBbr2 (z off : Byte) (s : State) : Host.Outcome State Fault Refusal :=
  branchOnBit 2 false z off s

/-- BBR 3: branch if bit 3 of a zero-page byte is 0 (R131). -/
def execBbr3 (z off : Byte) (s : State) : Host.Outcome State Fault Refusal :=
  branchOnBit 3 false z off s

/-- BBR 4: branch if bit 4 of a zero-page byte is 0 (R131). -/
def execBbr4 (z off : Byte) (s : State) : Host.Outcome State Fault Refusal :=
  branchOnBit 4 false z off s

/-- BBR 5: branch if bit 5 of a zero-page byte is 0 (R131). -/
def execBbr5 (z off : Byte) (s : State) : Host.Outcome State Fault Refusal :=
  branchOnBit 5 false z off s

/-- BBR 6: branch if bit 6 of a zero-page byte is 0 (R131). -/
def execBbr6 (z off : Byte) (s : State) : Host.Outcome State Fault Refusal :=
  branchOnBit 6 false z off s

/-- BBR 7: branch if bit 7 of a zero-page byte is 0 (R131). -/
def execBbr7 (z off : Byte) (s : State) : Host.Outcome State Fault Refusal :=
  branchOnBit 7 false z off s

/-- BBS 0: branch if bit 0 of a zero-page byte is 1 (R132). -/
def execBbs0 (z off : Byte) (s : State) : Host.Outcome State Fault Refusal :=
  branchOnBit 0 true z off s

/-- BBS 1: branch if bit 1 of a zero-page byte is 1 (R132). -/
def execBbs1 (z off : Byte) (s : State) : Host.Outcome State Fault Refusal :=
  branchOnBit 1 true z off s

/-- BBS 2: branch if bit 2 of a zero-page byte is 1 (R132). -/
def execBbs2 (z off : Byte) (s : State) : Host.Outcome State Fault Refusal :=
  branchOnBit 2 true z off s

/-- BBS 3: branch if bit 3 of a zero-page byte is 1 (R132). -/
def execBbs3 (z off : Byte) (s : State) : Host.Outcome State Fault Refusal :=
  branchOnBit 3 true z off s

/-- BBS 4: branch if bit 4 of a zero-page byte is 1 (R132). -/
def execBbs4 (z off : Byte) (s : State) : Host.Outcome State Fault Refusal :=
  branchOnBit 4 true z off s

/-- BBS 5: branch if bit 5 of a zero-page byte is 1 (R132). -/
def execBbs5 (z off : Byte) (s : State) : Host.Outcome State Fault Refusal :=
  branchOnBit 5 true z off s

/-- BBS 6: branch if bit 6 of a zero-page byte is 1 (R132). -/
def execBbs6 (z off : Byte) (s : State) : Host.Outcome State Fault Refusal :=
  branchOnBit 6 true z off s

/-- BBS 7: branch if bit 7 of a zero-page byte is 1 (R132). -/
def execBbs7 (z off : Byte) (s : State) : Host.Outcome State Fault Refusal :=
  branchOnBit 7 true z off s

end Sys2Proof.Machine
end

