-- ==== Sys2Proof/Machine/Branch.lean ====
section
/-! DEFINITION. The relative branches and the jumps: BPL to BEQ, JMP, JSR, RTS (spec/41, 44, 47). -/

namespace Sys2Proof.Machine

/-- BPL: branch if N = 0 (R133). -/
def execBpl (off : Byte) (s : State) : Host.Outcome State Fault Refusal :=
  branch (!s.n) off s

/-- BMI: branch if N = 1 (R134). -/
def execBmi (off : Byte) (s : State) : Host.Outcome State Fault Refusal :=
  branch s.n off s

/-- BVC: branch if V = 0 (R135). -/
def execBvc (off : Byte) (s : State) : Host.Outcome State Fault Refusal :=
  branch (!s.v) off s

/-- BVS: branch if V = 1 (R136). -/
def execBvs (off : Byte) (s : State) : Host.Outcome State Fault Refusal :=
  branch s.v off s

/-- BRA: branch always (R137). -/
def execBra (off : Byte) (s : State) : Host.Outcome State Fault Refusal :=
  branch true off s

/-- BCC: branch if C = 0 (R138). -/
def execBcc (off : Byte) (s : State) : Host.Outcome State Fault Refusal :=
  branch (!s.c) off s

/-- BCS: branch if C = 1 (R139). -/
def execBcs (off : Byte) (s : State) : Host.Outcome State Fault Refusal :=
  branch s.c off s

/-- BNE: branch if Z = 0 (R140). -/
def execBne (off : Byte) (s : State) : Host.Outcome State Fault Refusal :=
  branch (!s.z) off s

/-- BEQ: branch if Z = 1 (R141). -/
def execBeq (off : Byte) (s : State) : Host.Outcome State Fault Refusal :=
  branch s.z off s

/-- JMP: to the address, or to the address read at the pointer, or at the pointer plus X (R190, R191, R192). -/
def execJmp (m : JumpMode) (s : State) : Host.Outcome State Fault Refusal :=
  match m with
  | .abs a => .next (s.jump a)
  | .ind a => .next ((s.read16 a).2.jump (s.read16 a).1)
  | .indX a => .next ((s.read16 (a + zext s.x)).2.jump (s.read16 (a + zext s.x)).1)

/-- JSR: the address of its last byte is pushed, then the jump; the operand is read before the pushes (R193, log 13). -/
def execJsr (a : Word) (s : State) : Host.Outcome State Fault Refusal :=
  .next ((s.push16 (s.pc + 2)).jump a)

/-- RTS: `Pull PC, PC+1 -> PC` (R251). -/
def execRts (s : State) : Host.Outcome State Fault Refusal :=
  .next (s.pull16.2.jump (s.pull16.1 + 1))

end Sys2Proof.Machine
end

