-- ==== Sys2Proof/Machine/LoadStore.lean ====
section
/-! DEFINITION. The loads and stores: LDA, LDX, LDY, STA, STX, STY, STZ (spec/44, 48). -/

namespace Sys2Proof.Machine

/-- LDA: `M -> A`; N and Z only (R194). -/
def execLda (src : Source) (s : State) : Host.Outcome State Fault Refusal :=
  withOperand src (fun m t => State.setNZ m { t with a := m }) s

/-- LDX: `M -> X`; N and Z only (R195). -/
def execLdx (src : Source) (s : State) : Host.Outcome State Fault Refusal :=
  withOperand src (fun m t => State.setNZ m { t with x := m }) s

/-- LDY: `M -> Y`; N and Z only (R196). -/
def execLdy (src : Source) (s : State) : Host.Outcome State Fault Refusal :=
  withOperand src (fun m t => State.setNZ m { t with y := m }) s

/-- STA: `A -> M`; no flags (R265). -/
def execSta (m : AddrMode) (s : State) : Host.Outcome State Fault Refusal :=
  storeMem m s.a s

/-- STX: `X -> M`; no flags (R271). -/
def execStx (m : AddrMode) (s : State) : Host.Outcome State Fault Refusal :=
  storeMem m s.x s

/-- STY: `Y -> M`; no flags (R272). -/
def execSty (m : AddrMode) (s : State) : Host.Outcome State Fault Refusal :=
  storeMem m s.y s

/-- STZ: `0 -> M`; no flags (R273). -/
def execStz (m : AddrMode) (s : State) : Host.Outcome State Fault Refusal :=
  storeMem m 0x00#8 s

end Sys2Proof.Machine
end

