-- ==== Sys2Proof/Machine/Logic.lean ====
section
/-! DEFINITION. The logical instructions: AND, ORA, EOR, BIT, TRB, TSB (spec/40, 42, 43, 45, 49). -/

namespace Sys2Proof.Machine

/-- AND: `A AND M -> A`; N and Z only (R123). -/
def execAnd (src : Source) (s : State) : Host.Outcome State Fault Refusal :=
  withOperand src (fun m t => State.setNZ (t.a &&& m) { t with a := t.a &&& m }) s

/-- ORA: `A OR M -> A`; N and Z only (R219). -/
def execOra (src : Source) (s : State) : Host.Outcome State Fault Refusal :=
  withOperand src (fun m t => State.setNZ (t.a ||| m) { t with a := t.a ||| m }) s

/-- EOR: `A EOR M -> A`; N and Z only (R177). -/
def execEor (src : Source) (s : State) : Host.Outcome State Fault Refusal :=
  withOperand src (fun m t => State.setNZ (t.a ^^^ m) { t with a := t.a ^^^ m }) s

/-- BIT: Z from `A & m`; but for the immediate form, N and V from bits 7 and 6 of the operand (R150). -/
def execBit (src : Source) (s : State) : Host.Outcome State Fault Refusal :=
  match src with
  | .imm _ => withOperand src (fun m t => t.setTest m) s
  | .mem _ => withOperand src (fun m t => { t.setTest m with n := m.getLsbD 7, v := m.getLsbD 6 }) s

/-- TRB: Z from `A & m`, then the bits of A are cleared in the byte (R287). -/
def execTrb (m : AddrMode) (s : State) : Host.Outcome State Fault Refusal :=
  modifyBits m true (fun u => u &&& ~~~s.a) s

/-- TSB: Z from `A & m`, then the bits of A are set in the byte (R288). -/
def execTsb (m : AddrMode) (s : State) : Host.Outcome State Fault Refusal :=
  modifyBits m true (fun u => u ||| s.a) s

end Sys2Proof.Machine
end

