-- ==== Sys2Proof/Machine/Shift.lean ====
section
/-! DEFINITION. The shifts and rotates: ASL, LSR, ROL, ROR (spec/40, 45, 46). -/

namespace Sys2Proof.Machine

/-- ASL: `C <- [76543210] <- 0`, in A or in memory; N, Z, C (R124). -/
def execAsl (t : Target) (s : State) : Host.Outcome State Fault Refusal :=
  modifyOperand shiftLeft t s

/-- LSR: `0 -> [76543210] -> C`, in A or in memory; N (always 0), Z, C (R210). -/
def execLsr (t : Target) (s : State) : Host.Outcome State Fault Refusal :=
  modifyOperand shiftRight t s

/-- ROL: `C <- [76543210] <- C`, in A or in memory; N, Z, C (R239). -/
def execRol (t : Target) (s : State) : Host.Outcome State Fault Refusal :=
  modifyOperand rotateLeft t s

/-- ROR: `C -> [76543210] -> C`, in A or in memory; N, Z, C (R240). -/
def execRor (t : Target) (s : State) : Host.Outcome State Fault Refusal :=
  modifyOperand rotateRight t s

end Sys2Proof.Machine
end

