-- ==== Sys2Proof/Machine/Stack.lean ====
section
/-! DEFINITION. The pushes and pulls: PHA, PHP, PHX, PHY, PLA, PLP, PLX, PLY (spec/46). -/

namespace Sys2Proof.Machine

/-- PHA: `A -> Ms, SP - 1 -> SP`; no flags (R230). -/
def execPha (s : State) : Host.Outcome State Fault Refusal :=
  implied (fun t => t.push8 t.a) s

/-- PHP: the SR image with bits 5 and 4 set is pushed; no flags (R231). -/
def execPhp (s : State) : Host.Outcome State Fault Refusal :=
  implied (fun t => t.push8 (t.srImage true)) s

/-- PHX: `X -> Ms, SP - 1 -> SP`; no flags (R232). -/
def execPhx (s : State) : Host.Outcome State Fault Refusal :=
  implied (fun t => t.push8 t.x) s

/-- PHY: `Y -> Ms, SP - 1 -> SP`; no flags (R233). -/
def execPhy (s : State) : Host.Outcome State Fault Refusal :=
  implied (fun t => t.push8 t.y) s

/-- PLA: `SP + 1 -> SP, Ms -> A`; N and Z only (R234). -/
def execPla (s : State) : Host.Outcome State Fault Refusal :=
  implied (fun t => State.setNZ t.pull8.1 { t.pull8.2 with a := t.pull8.1 }) s

/-- PLP: the six flags from the byte pulled, bits 5 and 4 of it ignored (R235). -/
def execPlp (s : State) : Host.Outcome State Fault Refusal :=
  implied (fun t => t.pull8.2.srLoad t.pull8.1) s

/-- PLX: `SP + 1 -> SP, Ms -> X`; N and Z only (R236). -/
def execPlx (s : State) : Host.Outcome State Fault Refusal :=
  implied (fun t => State.setNZ t.pull8.1 { t.pull8.2 with x := t.pull8.1 }) s

/-- PLY: `SP + 1 -> SP, Ms -> Y`; N and Z only (R237). -/
def execPly (s : State) : Host.Outcome State Fault Refusal :=
  implied (fun t => State.setNZ t.pull8.1 { t.pull8.2 with y := t.pull8.1 }) s

end Sys2Proof.Machine
end

