-- ==== Sys2Proof/Machine/System.lean ====
section
/-! DEFINITION. The flag instructions, BRK, RTI, WAI, STP, NOP and the invalid opcodes (spec/42, 45, 47, 48, 49). -/

namespace Sys2Proof.Machine

/-- CLC: `0 -> C`; no other flag (R152). -/
def execClc (s : State) : Host.Outcome State Fault Refusal :=
  implied (fun t => { t with c := false }) s

/-- CLD: `0 -> D`; no other flag (R153). -/
def execCld (s : State) : Host.Outcome State Fault Refusal :=
  implied (fun t => { t with d := false }) s

/-- CLI: `0 -> I`; no other flag (R154). -/
def execCli (s : State) : Host.Outcome State Fault Refusal :=
  implied (fun t => { t with i := false }) s

/-- CLV: `0 -> V`; no other flag (R155). -/
def execClv (s : State) : Host.Outcome State Fault Refusal :=
  implied (fun t => { t with v := false }) s

/-- SEC: `1 -> C`; no other flag (R156). -/
def execSec (s : State) : Host.Outcome State Fault Refusal :=
  implied (fun t => { t with c := true }) s

/-- SED: `1 -> D`; no other flag (R157). -/
def execSed (s : State) : Host.Outcome State Fault Refusal :=
  implied (fun t => { t with d := true }) s

/-- SEI: `1 -> I`; no other flag (R158). -/
def execSei (s : State) : Host.Outcome State Fault Refusal :=
  implied (fun t => { t with i := true }) s

/-- BRK: the interrupt sequence through $FFFE with bit 4 of the pushed SR set, and the return address two past the
opcode (R151, R306). -/
def execBrk (s : State) : Host.Outcome State Fault Refusal :=
  .next ((s.jump (s.pc + 2)).interrupt Config.irqVector true)

/-- RTI: the flags, then PC, from the stack (R250, R311). -/
def execRti (s : State) : Host.Outcome State Fault Refusal :=
  .next s.returnFromInterrupt

/-- WAI: PC past the instruction, run state Waiting (R289). -/
def execWai (s : State) : Host.Outcome State Fault Refusal :=
  implied (fun t => t.setRun .waiting) s

/-- STP: PC past the instruction, run state Stopped (R270). -/
def execStp (s : State) : Host.Outcome State Fault Refusal :=
  implied (fun t => t.setRun .stopped) s

/-- NOP: PC past the instruction, nothing else (R215). -/
def execNop (s : State) : Host.Outcome State Fault Refusal :=
  .next (s.advance 1)

/-- The one-byte invalid opcodes: PC past the byte, nothing else (R216). -/
def execNop1 (_op : Byte) (s : State) : Host.Outcome State Fault Refusal :=
  .next (s.advance 1)

/-- The two-byte invalid opcodes: PC past both bytes, nothing else; the operand byte is skipped (R217). -/
def execNop2 (_op _b1 : Byte) (s : State) : Host.Outcome State Fault Refusal :=
  .next (s.advance 2)

/-- The three-byte invalid opcodes: PC past the bytes, nothing else; the operand bytes are skipped (R218). -/
def execNop3 (_op _b1 _b2 : Byte) (s : State) : Host.Outcome State Fault Refusal :=
  .next (s.advance 3)

end Sys2Proof.Machine
end

