-- ==== Sys2Proof/Machine/Transfer.lean ====
section
/-! DEFINITION. The register transfers: TAX, TAY, TSX, TXA, TYA, TXS (spec/49). -/

namespace Sys2Proof.Machine

/-- TAX: `A -> X`; N and Z only (R280). -/
def execTax (s : State) : Host.Outcome State Fault Refusal :=
  implied (fun t => State.setNZ t.a { t with x := t.a }) s

/-- TAY: `A -> Y`; N and Z only (R281). -/
def execTay (s : State) : Host.Outcome State Fault Refusal :=
  implied (fun t => State.setNZ t.a { t with y := t.a }) s

/-- TSX: `SP -> X`; N and Z only (R282). -/
def execTsx (s : State) : Host.Outcome State Fault Refusal :=
  implied (fun t => State.setNZ t.sp { t with x := t.sp }) s

/-- TXA: `X -> A`; N and Z only (R283). -/
def execTxa (s : State) : Host.Outcome State Fault Refusal :=
  implied (fun t => State.setNZ t.x { t with a := t.x }) s

/-- TYA: `Y -> A`; N and Z only (R284). -/
def execTya (s : State) : Host.Outcome State Fault Refusal :=
  implied (fun t => State.setNZ t.y { t with a := t.y }) s

/-- TXS: `X -> SP`; no flags (R285). -/
def execTxs (s : State) : Host.Outcome State Fault Refusal :=
  implied (fun t => { t with sp := t.x }) s

end Sys2Proof.Machine
end

