-- ==== Sys2Proof/Machine/Dispatch.lean ====
section
/-! DEFINITION. One arm per constructor of Instr, each a direct call of its meaning. -/

namespace Sys2Proof.Machine

-- The meaning of an instruction in a state whose PC is the address of its opcode byte.
def exec (i : Instr) (s : State) : Host.Outcome State Fault Refusal :=
  match i with
  | .adc src => Sys2Proof.Machine.execAdc src s
  | .and src => Sys2Proof.Machine.execAnd src s
  | .asl t => Sys2Proof.Machine.execAsl t s
  | .bbr0 z off => Sys2Proof.Machine.execBbr0 z off s
  | .bbr1 z off => Sys2Proof.Machine.execBbr1 z off s
  | .bbr2 z off => Sys2Proof.Machine.execBbr2 z off s
  | .bbr3 z off => Sys2Proof.Machine.execBbr3 z off s
  | .bbr4 z off => Sys2Proof.Machine.execBbr4 z off s
  | .bbr5 z off => Sys2Proof.Machine.execBbr5 z off s
  | .bbr6 z off => Sys2Proof.Machine.execBbr6 z off s
  | .bbr7 z off => Sys2Proof.Machine.execBbr7 z off s
  | .bbs0 z off => Sys2Proof.Machine.execBbs0 z off s
  | .bbs1 z off => Sys2Proof.Machine.execBbs1 z off s
  | .bbs2 z off => Sys2Proof.Machine.execBbs2 z off s
  | .bbs3 z off => Sys2Proof.Machine.execBbs3 z off s
  | .bbs4 z off => Sys2Proof.Machine.execBbs4 z off s
  | .bbs5 z off => Sys2Proof.Machine.execBbs5 z off s
  | .bbs6 z off => Sys2Proof.Machine.execBbs6 z off s
  | .bbs7 z off => Sys2Proof.Machine.execBbs7 z off s
  | .bpl off => Sys2Proof.Machine.execBpl off s
  | .bmi off => Sys2Proof.Machine.execBmi off s
  | .bvc off => Sys2Proof.Machine.execBvc off s
  | .bvs off => Sys2Proof.Machine.execBvs off s
  | .bra off => Sys2Proof.Machine.execBra off s
  | .bcc off => Sys2Proof.Machine.execBcc off s
  | .bcs off => Sys2Proof.Machine.execBcs off s
  | .bne off => Sys2Proof.Machine.execBne off s
  | .beq off => Sys2Proof.Machine.execBeq off s
  | .bit src => Sys2Proof.Machine.execBit src s
  | .brk => Sys2Proof.Machine.execBrk s
  | .clc => Sys2Proof.Machine.execClc s
  | .cld => Sys2Proof.Machine.execCld s
  | .cli => Sys2Proof.Machine.execCli s
  | .clv => Sys2Proof.Machine.execClv s
  | .sec => Sys2Proof.Machine.execSec s
  | .sed => Sys2Proof.Machine.execSed s
  | .sei => Sys2Proof.Machine.execSei s
  | .cmp src => Sys2Proof.Machine.execCmp src s
  | .cpx src => Sys2Proof.Machine.execCpx src s
  | .cpy src => Sys2Proof.Machine.execCpy src s
  | .dec t => Sys2Proof.Machine.execDec t s
  | .dex => Sys2Proof.Machine.execDex s
  | .dey => Sys2Proof.Machine.execDey s
  | .eor src => Sys2Proof.Machine.execEor src s
  | .inc t => Sys2Proof.Machine.execInc t s
  | .inx => Sys2Proof.Machine.execInx s
  | .iny => Sys2Proof.Machine.execIny s
  | .jmp m => Sys2Proof.Machine.execJmp m s
  | .jsr a => Sys2Proof.Machine.execJsr a s
  | .lda src => Sys2Proof.Machine.execLda src s
  | .ldx src => Sys2Proof.Machine.execLdx src s
  | .ldy src => Sys2Proof.Machine.execLdy src s
  | .lsr t => Sys2Proof.Machine.execLsr t s
  | .nop => Sys2Proof.Machine.execNop s
  | .nop1 op => Sys2Proof.Machine.execNop1 op s
  | .nop2 op b1 => Sys2Proof.Machine.execNop2 op b1 s
  | .nop3 op b1 b2 => Sys2Proof.Machine.execNop3 op b1 b2 s
  | .ora src => Sys2Proof.Machine.execOra src s
  | .pha => Sys2Proof.Machine.execPha s
  | .php => Sys2Proof.Machine.execPhp s
  | .phx => Sys2Proof.Machine.execPhx s
  | .phy => Sys2Proof.Machine.execPhy s
  | .pla => Sys2Proof.Machine.execPla s
  | .plp => Sys2Proof.Machine.execPlp s
  | .plx => Sys2Proof.Machine.execPlx s
  | .ply => Sys2Proof.Machine.execPly s
  | .rmb0 z => Sys2Proof.Machine.execRmb0 z s
  | .rmb1 z => Sys2Proof.Machine.execRmb1 z s
  | .rmb2 z => Sys2Proof.Machine.execRmb2 z s
  | .rmb3 z => Sys2Proof.Machine.execRmb3 z s
  | .rmb4 z => Sys2Proof.Machine.execRmb4 z s
  | .rmb5 z => Sys2Proof.Machine.execRmb5 z s
  | .rmb6 z => Sys2Proof.Machine.execRmb6 z s
  | .rmb7 z => Sys2Proof.Machine.execRmb7 z s
  | .rol t => Sys2Proof.Machine.execRol t s
  | .ror t => Sys2Proof.Machine.execRor t s
  | .rti => Sys2Proof.Machine.execRti s
  | .rts => Sys2Proof.Machine.execRts s
  | .sbc src => Sys2Proof.Machine.execSbc src s
  | .smb0 z => Sys2Proof.Machine.execSmb0 z s
  | .smb1 z => Sys2Proof.Machine.execSmb1 z s
  | .smb2 z => Sys2Proof.Machine.execSmb2 z s
  | .smb3 z => Sys2Proof.Machine.execSmb3 z s
  | .smb4 z => Sys2Proof.Machine.execSmb4 z s
  | .smb5 z => Sys2Proof.Machine.execSmb5 z s
  | .smb6 z => Sys2Proof.Machine.execSmb6 z s
  | .smb7 z => Sys2Proof.Machine.execSmb7 z s
  | .sta m => Sys2Proof.Machine.execSta m s
  | .stp => Sys2Proof.Machine.execStp s
  | .stx m => Sys2Proof.Machine.execStx m s
  | .sty m => Sys2Proof.Machine.execSty m s
  | .stz m => Sys2Proof.Machine.execStz m s
  | .tax => Sys2Proof.Machine.execTax s
  | .tay => Sys2Proof.Machine.execTay s
  | .tsx => Sys2Proof.Machine.execTsx s
  | .txa => Sys2Proof.Machine.execTxa s
  | .tya => Sys2Proof.Machine.execTya s
  | .txs => Sys2Proof.Machine.execTxs s
  | .trb m => Sys2Proof.Machine.execTrb m s
  | .tsb m => Sys2Proof.Machine.execTsb m s
  | .wai => Sys2Proof.Machine.execWai s

end Sys2Proof.Machine
end

