-- ==== Sys2Proof/Machine/Timing.lean ====
section
/-! DEFINITION. The CYCLES column (R351) with its terms p, t and d (R352), for the optional cycle counter of R354
(log 17). No other definition of the machine reads a cycle count. A mode that a mnemonic does not have (R105) has no row:
its count is 0. -/

namespace Sys2Proof.Machine

/-- The cycles of an interrupt or reset sequence (R353 g). -/
def sequenceCycles : Nat := 7

/-- p of `abs,X` and `abs,Y` (R352): the index addition carries into the high byte. -/
def indexCarry (a : Word) (index : Byte) : Nat :=
  b2n (hi (a + zext index) != hi a)

/-- p of `(zp),Y` (R352): the low byte of the pointer plus Y carries. -/
def pointerCarry (z : Byte) (s : State) : Nat :=
  b2n (decide (255 < (lo (s.read16zp z).1).toNat + s.y.toNat))

/-- The cycles of an instruction that reads a memory operand: the rows of ADC without d, AND, BIT, CMP and so on. -/
def readCycles (m : AddrMode) (s : State) : Nat :=
  match m with
  | .zp _ => 3
  | .zpX _ | .zpY _ | .abs _ => 4
  | .absX a => 4 + indexCarry a s.x
  | .absY a => 4 + indexCarry a s.y
  | .indX _ => 6
  | .indY z => 5 + pointerCarry z s
  | .ind _ => 5

/-- `readCycles`, or the 2 cycles of an immediate. -/
def sourceCycles (src : Source) (s : State) : Nat :=
  match src with
  | .imm _ => 2
  | .mem m => readCycles m s

/-- The cycles of a store: no p term (R353 b). -/
def storeCycles : AddrMode → Nat
  | .zp _ => 3
  | .zpX _ | .zpY _ | .abs _ => 4
  | .absX _ | .absY _ | .ind _ => 5
  | .indX _ | .indY _ => 6

/-- The cycles of ASL, LSR, ROL, ROR: `abs,X` is 6+p (R353 c). -/
def shiftCycles (t : Target) (s : State) : Nat :=
  match t with
  | .acc => 2
  | .mem (.zp _) => 5
  | .mem (.zpX _) | .mem (.abs _) => 6
  | .mem (.absX a) => 6 + indexCarry a s.x
  | .mem _ => 0

/-- The cycles of INC and DEC: `abs,X` is a flat 7 (R353 c). -/
def countCycles : Target → Nat
  | .acc => 2
  | .mem (.zp _) => 5
  | .mem (.zpX _) | .mem (.abs _) => 6
  | .mem (.absX _) => 7
  | .mem _ => 0

/-- The cycles of TRB and TSB. -/
def testCycles : AddrMode → Nat
  | .zp _ => 5
  | .abs _ => 6
  | _ => 0

/-- The terms `t+t*p` of a branch (R352): p compares the target with the instruction after the branch. -/
def takenCycles (taken : Bool) (off : Byte) (next : Word) : Nat :=
  if taken then 1 + b2n (hi (next + sext off) != hi next) else 0

/-- The cycles of a conditional relative branch: `2+t+t*p`. -/
def branchCycles (taken : Bool) (off : Byte) (s : State) : Nat :=
  2 + takenCycles taken off (s.pc + 2)

/-- The cycles of BBR and BBS: `5+t+t*p`. -/
def bitBranchCycles (n : Nat) (want : Bool) (z off : Byte) (s : State) : Nat :=
  5 + takenCycles ((s.load (zext z)).1.getLsbD n == want) off (s.pc + 3)

/-- The cycles of a two-byte invalid opcode (R217). -/
def nop2Cycles (op : Byte) : Nat :=
  if op = 0x44 then 3 else if op = 0x54 ∨ op = 0xD4 ∨ op = 0xF4 then 4 else 2

/-- The cycles of a three-byte invalid opcode (R218). -/
def nop3Cycles (op : Byte) : Nat :=
  if op = 0x5C then 8 else 4

/-- The cycles of an instruction that starts in state `s` (R351 to R353). -/
def instrCycles (i : Instr) (s : State) : Nat :=
  match i with
  | .adc q | .sbc q => sourceCycles q s + b2n s.d
  | .and q | .bit q | .cmp q | .cpx q | .cpy q | .eor q | .lda q | .ldx q | .ldy q | .ora q => sourceCycles q s
  | .sta m | .stx m | .sty m | .stz m => storeCycles m
  | .asl t | .lsr t | .rol t | .ror t => shiftCycles t s
  | .inc t | .dec t => countCycles t
  | .trb m | .tsb m => testCycles m
  | .bbr0 z o => bitBranchCycles 0 false z o s
  | .bbr1 z o => bitBranchCycles 1 false z o s
  | .bbr2 z o => bitBranchCycles 2 false z o s
  | .bbr3 z o => bitBranchCycles 3 false z o s
  | .bbr4 z o => bitBranchCycles 4 false z o s
  | .bbr5 z o => bitBranchCycles 5 false z o s
  | .bbr6 z o => bitBranchCycles 6 false z o s
  | .bbr7 z o => bitBranchCycles 7 false z o s
  | .bbs0 z o => bitBranchCycles 0 true z o s
  | .bbs1 z o => bitBranchCycles 1 true z o s
  | .bbs2 z o => bitBranchCycles 2 true z o s
  | .bbs3 z o => bitBranchCycles 3 true z o s
  | .bbs4 z o => bitBranchCycles 4 true z o s
  | .bbs5 z o => bitBranchCycles 5 true z o s
  | .bbs6 z o => bitBranchCycles 6 true z o s
  | .bbs7 z o => bitBranchCycles 7 true z o s
  | .bpl o => branchCycles (!s.n) o s
  | .bmi o => branchCycles s.n o s
  | .bvc o => branchCycles (!s.v) o s
  | .bvs o => branchCycles s.v o s
  | .bcc o => branchCycles (!s.c) o s
  | .bcs o => branchCycles s.c o s
  | .bne o => branchCycles (!s.z) o s
  | .beq o => branchCycles s.z o s
  | .bra _ => 3
  | .rmb0 _ | .rmb1 _ | .rmb2 _ | .rmb3 _ | .rmb4 _ | .rmb5 _ | .rmb6 _ | .rmb7 _ => 5
  | .smb0 _ | .smb1 _ | .smb2 _ | .smb3 _ | .smb4 _ | .smb5 _ | .smb6 _ | .smb7 _ => 5
  | .jmp (.abs _) => 3
  | .jmp (.ind _) | .jmp (.indX _) => 6
  | .jsr _ | .rts | .rti => 6
  | .brk => 7
  | .pha | .php | .phx | .phy => 3
  | .pla | .plp | .plx | .ply => 4
  | .clc | .cld | .cli | .clv | .sec | .sed | .sei => 2
  | .dex | .dey | .inx | .iny | .nop => 2
  | .tax | .tay | .tsx | .txa | .tya | .txs => 2
  | .wai => 2
  | .stp => 3
  | .nop1 _ => 1
  | .nop2 op _ => nop2Cycles op
  | .nop3 op _ _ => nop3Cycles op

end Sys2Proof.Machine
end

