-- ==== Sys2Proof/Machine/Boundary.lean ====
section
/-! DEFINITION. One step of the machine, taken at an instruction boundary (R308): the inputs are sampled, and then a
reset, an interrupt, a wait, or one instruction happens, in the priority of R309. -/

namespace Sys2Proof.Machine

/-! ### Fetch -/

/-- One instruction byte: RAM and ROM are read, IO and Unmapped are refused (R58, R70, log 8). -/
def State.fetchByte (a : Word) (s : State) : Except Refusal Byte :=
  match s.region a with
  | .ram => .ok (s.peek a)
  | .rom => .ok (s.peek a)
  | .io => .error .fetchFromIo
  | .unmapped => .error .fetchFromUnmapped

/-- `n` instruction bytes at rising addresses, modulo 65536 (R55, R36). -/
def State.fetchBytes (n : Nat) (a : Word) (s : State) : Except Refusal (List Byte) :=
  match n with
  | 0 => .ok []
  | k + 1 =>
    match s.fetchByte a with
    | .error r => .error r
    | .ok b =>
      match State.fetchBytes k (a + 1) s with
      | .error r => .error r
      | .ok bs => .ok (b :: bs)

/-- The instruction at PC: the opcode byte, then the LEN - 1 bytes it asks for (R80, R308). -/
def State.fetch (s : State) : Except Refusal Instr :=
  match s.fetchByte s.pc with
  | .error r => .error r
  | .ok op =>
    match s.fetchBytes (opcodeLength op - 1) (s.pc + 1) with
    | .error r => .error r
    | .ok bs => .ok (decodeOpcode op (bs.getD 0 0) (bs.getD 1 0))

/-- The cycle counter advanced where the instruction answers a next state (R354). -/
def tickOutcome (k : Nat) : Host.Outcome State Fault Refusal → Host.Outcome State Fault Refusal
  | .next t => .next (t.tick k)
  | .fault f => .fault f
  | .refused r => .refused r

/-- `ExecuteOne()` (R308): fetch at PC, decode, apply the rule. -/
def executeOne (s : State) : Host.Outcome State Fault Refusal :=
  match s.fetch with
  | .error r => .refused r
  | .ok i => tickOutcome (instrCycles i s) (exec i s)

/-! ### The boundary -/

/-- `Env.lines` at this boundary (R304); no input active when the queue is empty (log 4). -/
def State.lines (s : State) : Lines := s.inputs.headD Lines.quiet

/-- The state after the inputs are sampled (R307, R308): an NMI edge sets the latch; the queue moves on. -/
def State.sampled (s : State) : State :=
  { s with nmiPending := s.nmiPending || s.lines.nmiEdge, inputs := s.inputs.tail }

/-- The NMI sequence (R307): the latch is cleared, then the interrupt through $FFFA with bit 4 of the pushed SR clear. -/
def State.takeNmi (s : State) : State :=
  (State.interrupt Config.nmiVector false { s with nmiPending := false }).tick sequenceCycles

/-- The IRQ sequence (R305): the interrupt through $FFFE with bit 4 of the pushed SR clear. -/
def State.takeIrq (s : State) : State :=
  (s.interrupt Config.irqVector false).tick sequenceCycles

/-- One step (R308), with the priority of R309. A stopped or waiting processor that nothing wakes takes a step that
changes nothing but the input queue and the NMI latch (log 15). -/
def stepAtBoundary (s : State) : Host.Outcome State Fault Refusal :=
  let l := s.lines
  let t := s.sampled
  if l.resb then .next (t.takeReset.tick sequenceCycles)
  else if t.run = .stopped then .next t
  else if t.nmiPending then .next t.takeNmi
  else if l.irqLow && !t.i then .next t.takeIrq
  else if t.run = .waiting then .next (if l.irqLow then t.setRun .running else t)
  else executeOne t

/-! ### Placing an instruction where the next step fetches it -/

/-- The bytes stored at rising addresses from `a`, whatever stands there; an address from which no instruction could be
fetched becomes RAM (log 23). -/
def State.placeBytes (bs : List Byte) (a : Word) (s : State) : State :=
  match bs with
  | [] => s
  | b :: rest =>
    let here := { s with mem := s.mem.write a.toNat b }
    let fetchable :=
      match s.region a with
      | .ram => here
      | .rom => here
      | .io => { here with regions := { first := a, last := a, kind := .ram } :: s.regions }
      | .unmapped => { here with regions := { first := a, last := a, kind := .ram } :: s.regions }
    State.placeBytes rest (a + 1) fetchable

/-- The state in which nothing but the instruction at PC can happen at the next boundary: Running, no NMI pending, no
input active there (log 23). -/
def State.readyToFetch (s : State) : State :=
  { s with run := .running, nmiPending := false, inputs := s.inputs.modifyHead (fun _ => Lines.quiet) }

end Sys2Proof.Machine
end

