-- ==== Sys2Proof/Machine/Step.lean ====
section
/-! DEFINITION. The step of the machine (R308), and the host's way to put one instruction where the next step fetches
it. -/

namespace Sys2Proof.Machine

/-- One step of the machine, taken at an instruction boundary (R308). -/
def step (s : State) : Host.Outcome State Fault Refusal :=
  stepAtBoundary s

/-- The state with the instruction of bits `w` stored at PC, and ready to fetch it (log 23). -/
def State.withFetchWord (s : State) (nbits w : Nat) : State :=
  (s.placeBytes (tableBytes nbits w) s.pc).readyToFetch

end Sys2Proof.Machine
end

