-- ==== Sys2Proof/Safety.lean ====
section
/-! DEFINITION. What counts as a safe run, and the words in which claims are stated: which addresses are memory, what an
instruction writes (R25 to R32, R42), where it stores, and the cycle grid of R351. The step uses none of this. -/

namespace Sys2Proof.Machine

/-! ### Safe runs -/

/-- `k` steps from `s` neither fault nor are refused. -/
def SafeRun (k : Nat) (s : State) : Prop :=
  ∃ t, Host.Core.run Sys2Proof.core k s = .next t

/-- RAM or ROM stands at an address (R58): a read answers the byte stored there and has no side effect. -/
def State.isMemory (b : Word) (s : State) : Prop :=
  s.region b = .ram ∨ s.region b = .rom

/-- RAM stands at an address (R58): a write replaces the byte. -/
def State.isRam (b : Word) (s : State) : Prop :=
  s.region b = .ram

/-- Nothing but the next instruction can happen at the coming boundary (R309): Running, no reset, no NMI, no IRQ that I lets
through. -/
def State.onlyExecutes (s : State) : Prop :=
  s.run = .running ∧ s.lines.resb = false ∧ s.lines.nmiEdge = false ∧ s.nmiPending = false ∧
    (s.lines.irqLow = true → s.i = true)

/-- N and Z are those of the byte `v` (R33), as numbers. -/
def State.showsNZ (v : Byte) (t : State) : Prop :=
  (t.n = true ↔ 128 ≤ v.toNat) ∧ (t.z = true ↔ v.toNat = 0)

/-! ### What an instruction writes -/

/-- The registers and flags that an instruction names as its results. -/
inductive Field where
  | a | x | y | sp | n | v | d | i | z | c
  deriving DecidableEq, Repr

/-- The register a read-modify-write instruction writes: A in mode `acc`, none in a memory mode (R42). -/
def targetFootprint : Target → List Field
  | .acc => [.a]
  | .mem _ => []

/-- The flags that BIT writes: the immediate form Z alone (R25, R26, R31, R150). -/
def bitFootprint : Source → List Field
  | .imm _ => [.z]
  | .mem _ => [.n, .v, .z]

/-- The registers that R42 lists as written by an instruction, and the flags that R25, R26 and R29 to R32 list. -/
def footprint : Instr → List Field
  | .adc _ | .sbc _ => [.a, .n, .v, .z, .c]
  | .and _ | .ora _ | .eor _ | .lda _ => [.a, .n, .z]
  | .ldx _ => [.x, .n, .z]
  | .ldy _ => [.y, .n, .z]
  | .cmp _ | .cpx _ | .cpy _ => [.n, .z, .c]
  | .bit s => bitFootprint s
  | .asl t | .lsr t | .rol t | .ror t => targetFootprint t ++ [.n, .z, .c]
  | .inc t | .dec t => targetFootprint t ++ [.n, .z]
  | .trb _ | .tsb _ => [.z]
  | .inx | .dex | .tax => [.x, .n, .z]
  | .iny | .dey | .tay => [.y, .n, .z]
  | .txa | .tya => [.a, .n, .z]
  | .tsx => [.x, .n, .z]
  | .txs => [.sp]
  | .pha | .php | .phx | .phy => [.sp]
  | .pla => [.a, .sp, .n, .z]
  | .plx => [.x, .sp, .n, .z]
  | .ply => [.y, .sp, .n, .z]
  | .plp => [.sp, .n, .v, .d, .i, .z, .c]
  | .jsr _ | .rts => [.sp]
  | .rti => [.sp, .n, .v, .d, .i, .z, .c]
  | .brk => [.sp, .d, .i]
  | .clc | .sec => [.c]
  | .cld | .sed => [.d]
  | .cli | .sei => [.i]
  | .clv => [.v]
  | .rmb0 _ | .rmb1 _ | .rmb2 _ | .rmb3 _ | .rmb4 _ | .rmb5 _ | .rmb6 _ | .rmb7 _
  | .smb0 _ | .smb1 _ | .smb2 _ | .smb3 _ | .smb4 _ | .smb5 _ | .smb6 _ | .smb7 _
  | .bbr0 .. | .bbr1 .. | .bbr2 .. | .bbr3 .. | .bbr4 .. | .bbr5 .. | .bbr6 .. | .bbr7 ..
  | .bbs0 .. | .bbs1 .. | .bbs2 .. | .bbs3 .. | .bbs4 .. | .bbs5 .. | .bbs6 .. | .bbs7 .. => []
  | .sta _ | .stx _ | .sty _ | .stz _ => []
  | .bpl _ | .bmi _ | .bvc _ | .bvs _ | .bra _ | .bcc _ | .bcs _ | .bne _ | .beq _ | .jmp _ => []
  | .nop | .nop1 _ | .nop2 .. | .nop3 .. | .wai | .stp => []

/-- The effective address of a read-modify-write instruction in a memory mode; none in mode `acc`. -/
def targetStores (t : Target) (s : State) : List Word :=
  match t with
  | .acc => []
  | .mem m => [(effAddr m s).1]

/-- The addresses an instruction stores to, in the state it starts in: the effective address of a store or of a
read-modify-write instruction, the stack addresses of a push; none for every other form. -/
def storesTo (i : Instr) (s : State) : List Word :=
  match i with
  | .sta m | .stx m | .sty m | .stz m | .trb m | .tsb m => [(effAddr m s).1]
  | .asl t | .lsr t | .rol t | .ror t | .inc t | .dec t => targetStores t s
  | .rmb0 z | .rmb1 z | .rmb2 z | .rmb3 z | .rmb4 z | .rmb5 z | .rmb6 z | .rmb7 z => [zext z]
  | .smb0 z | .smb1 z | .smb2 z | .smb3 z | .smb4 z | .smb5 z | .smb6 z | .smb7 z => [zext z]
  | .pha | .php | .phx | .phy => [stackAddr s.sp]
  | .jsr _ => [stackAddr s.sp, stackAddr (s.sp - 1)]
  | .brk => [stackAddr s.sp, stackAddr (s.sp - 1), stackAddr (s.sp - 2)]
  | .adc _ | .and _ | .bit _ | .cmp _ | .cpx _ | .cpy _ | .eor _ | .lda _ | .ldx _ | .ldy _ | .ora _ | .sbc _ => []
  | .bbr0 .. | .bbr1 .. | .bbr2 .. | .bbr3 .. | .bbr4 .. | .bbr5 .. | .bbr6 .. | .bbr7 ..
  | .bbs0 .. | .bbs1 .. | .bbs2 .. | .bbs3 .. | .bbs4 .. | .bbs5 .. | .bbs6 .. | .bbs7 .. => []
  | .bpl _ | .bmi _ | .bvc _ | .bvs _ | .bra _ | .bcc _ | .bcs _ | .bne _ | .beq _ | .jmp _ => []
  | .clc | .cld | .cli | .clv | .sec | .sed | .sei | .dex | .dey | .inx | .iny => []
  | .pla | .plp | .plx | .ply | .rti | .rts | .tax | .tay | .tsx | .txa | .tya | .txs => []
  | .nop | .nop1 _ | .nop2 .. | .nop3 .. | .wai | .stp => []

/-! ### The bit instructions by bit number (R82) -/

/-- `RMB n`. -/
def rmb (n : Fin 8) (z : Byte) : Instr :=
  match n with
  | 0 => .rmb0 z
  | 1 => .rmb1 z
  | 2 => .rmb2 z
  | 3 => .rmb3 z
  | 4 => .rmb4 z
  | 5 => .rmb5 z
  | 6 => .rmb6 z
  | 7 => .rmb7 z

/-- `SMB n`. -/
def smb (n : Fin 8) (z : Byte) : Instr :=
  match n with
  | 0 => .smb0 z
  | 1 => .smb1 z
  | 2 => .smb2 z
  | 3 => .smb3 z
  | 4 => .smb4 z
  | 5 => .smb5 z
  | 6 => .smb6 z
  | 7 => .smb7 z

/-- `BBR n`. -/
def bbr (n : Fin 8) (z off : Byte) : Instr :=
  match n with
  | 0 => .bbr0 z off
  | 1 => .bbr1 z off
  | 2 => .bbr2 z off
  | 3 => .bbr3 z off
  | 4 => .bbr4 z off
  | 5 => .bbr5 z off
  | 6 => .bbr6 z off
  | 7 => .bbr7 z off

/-- `BBS n`. -/
def bbs (n : Fin 8) (z off : Byte) : Instr :=
  match n with
  | 0 => .bbs0 z off
  | 1 => .bbs1 z off
  | 2 => .bbs2 z off
  | 3 => .bbs3 z off
  | 4 => .bbs4 z off
  | 5 => .bbs5 z off
  | 6 => .bbs6 z off
  | 7 => .bbs7 z off

/-! ### Read-modify-write instructions -/

/-- ASL, LSR, ROL, ROR, INC, DEC as a claim says them: the instruction completes in both its forms; `r` is the new byte and
`c` the new C, from the old byte and the old C; N and Z are those of the new byte; PC moves past the instruction. The
new byte goes to A, or to the effective address: there it is what RAM then holds, what a device is handed, and nothing at
all elsewhere. The clause on IO is in the form the model chose: the write stands in the history `ioLog` after the read
(log 6), and no other access is made (log 11). -/
def ReplacesOperand (op : Target → Instr) (r : Byte → Bool → Byte) (c : Byte → Bool → Bool) : Prop :=
  (∀ s : State, ∃ t, exec (op .acc) s = .next t ∧
    t.a = r s.a s.c ∧ t.c = c s.a s.c ∧ t.showsNZ (r s.a s.c) ∧ t.pc = s.pc + 1#16) ∧
  (∀ (m : AddrMode) (s : State), ∃ t, exec (op (.mem m)) s = .next t ∧
    t.c = c (loadMem m s).1 s.c ∧ t.showsNZ (r (loadMem m s).1 s.c) ∧ t.pc = s.pc + BitVec.ofNat 16 m.len ∧
    (s.mem.wf = true → s.isRam (effAddr m s).1 → t.peek (effAddr m s).1 = r (loadMem m s).1 s.c) ∧
    (¬ s.isRam (effAddr m s).1 → t.peek (effAddr m s).1 = s.peek (effAddr m s).1) ∧
    (s.region (effAddr m s).1 = .io →
      t.ioLog = .write (effAddr m s).1 (r (loadMem m s).1 s.c) :: (loadMem m s).2.ioLog))

/-! ### The length grid (R84) -/

/-- The grid of R84: rows `0x` to `Fx`, columns 0 to F. -/
def lengthGrid : List (List Nat) :=
  [[1, 2, 2, 1, 2, 2, 2, 2, 1, 2, 1, 1, 3, 3, 3, 3],
   [2, 2, 2, 1, 2, 2, 2, 2, 1, 3, 1, 1, 3, 3, 3, 3],
   [3, 2, 2, 1, 2, 2, 2, 2, 1, 2, 1, 1, 3, 3, 3, 3],
   [2, 2, 2, 1, 2, 2, 2, 2, 1, 3, 1, 1, 3, 3, 3, 3],
   [1, 2, 2, 1, 2, 2, 2, 2, 1, 2, 1, 1, 3, 3, 3, 3],
   [2, 2, 2, 1, 2, 2, 2, 2, 1, 3, 1, 1, 3, 3, 3, 3],
   [1, 2, 2, 1, 2, 2, 2, 2, 1, 2, 1, 1, 3, 3, 3, 3],
   [2, 2, 2, 1, 2, 2, 2, 2, 1, 3, 1, 1, 3, 3, 3, 3],
   [2, 2, 2, 1, 2, 2, 2, 2, 1, 2, 1, 1, 3, 3, 3, 3],
   [2, 2, 2, 1, 2, 2, 2, 2, 1, 3, 1, 1, 3, 3, 3, 3],
   [2, 2, 2, 1, 2, 2, 2, 2, 1, 2, 1, 1, 3, 3, 3, 3],
   [2, 2, 2, 1, 2, 2, 2, 2, 1, 3, 1, 1, 3, 3, 3, 3],
   [2, 2, 2, 1, 2, 2, 2, 2, 1, 2, 1, 1, 3, 3, 3, 3],
   [2, 2, 2, 1, 2, 2, 2, 2, 1, 3, 1, 1, 3, 3, 3, 3],
   [2, 2, 2, 1, 2, 2, 2, 2, 1, 2, 1, 1, 3, 3, 3, 3],
   [2, 2, 2, 1, 2, 2, 2, 2, 1, 3, 1, 1, 3, 3, 3, 3]]

/-- LEN of an opcode byte by the grid: row by high nibble, column by low nibble. -/
def lengthCell (op : Byte) : Nat :=
  (lengthGrid.getD (op.toNat / 16) []).getD (op.toNat % 16) 0

/-! ### The cycle grid (R351, R352) -/

/-- One cell of the grid: the number, and whether it carries the terms `+d`, `+p` and `+t+t*p`. -/
structure CycleCell where
  base   : Nat
  d      : Bool := false
  p      : Bool := false
  branch : Bool := false

/-- A cell that is a plain number. -/
def cell (k : Nat) : CycleCell := { base := k }

/-- A cell `k+p`. -/
def cellP (k : Nat) : CycleCell := { base := k, p := true }

/-- A cell `k+d`. -/
def cellD (k : Nat) : CycleCell := { base := k, d := true }

/-- A cell `k+d+p`. -/
def cellDP (k : Nat) : CycleCell := { base := k, d := true, p := true }

/-- A cell `k+t+t*p`. -/
def cellT (k : Nat) : CycleCell := { base := k, branch := true }

/-- The grid of R351: rows `0x` to `Fx`, columns 0 to F. -/
def cycleGrid : List (List CycleCell) :=
  [
    [cell 7, cell 6, cell 2, cell 1, cell 5, cell 3, cell 5, cell 5,
     cell 3, cell 2, cell 2, cell 1, cell 6, cell 4, cell 6, cellT 5],
    [cellT 2, cellP 5, cell 5, cell 1, cell 5, cell 4, cell 6, cell 5,
     cell 2, cellP 4, cell 2, cell 1, cell 6, cellP 4, cellP 6, cellT 5],
    [cell 6, cell 6, cell 2, cell 1, cell 3, cell 3, cell 5, cell 5,
     cell 4, cell 2, cell 2, cell 1, cell 4, cell 4, cell 6, cellT 5],
    [cellT 2, cellP 5, cell 5, cell 1, cell 4, cell 4, cell 6, cell 5,
     cell 2, cellP 4, cell 2, cell 1, cellP 4, cellP 4, cellP 6, cellT 5],
    [cell 6, cell 6, cell 2, cell 1, cell 3, cell 3, cell 5, cell 5,
     cell 3, cell 2, cell 2, cell 1, cell 3, cell 4, cell 6, cellT 5],
    [cellT 2, cellP 5, cell 5, cell 1, cell 4, cell 4, cell 6, cell 5,
     cell 2, cellP 4, cell 3, cell 1, cell 8, cellP 4, cellP 6, cellT 5],
    [cell 6, cellD 6, cell 2, cell 1, cell 3, cellD 3, cell 5, cell 5,
     cell 4, cellD 2, cell 2, cell 1, cell 6, cellD 4, cell 6, cellT 5],
    [cellT 2, cellDP 5, cellD 5, cell 1, cell 4, cellD 4, cell 6, cell 5,
     cell 2, cellDP 4, cell 4, cell 1, cell 6, cellDP 4, cellP 6, cellT 5]
  ] ++ [
    [cell 3, cell 6, cell 2, cell 1, cell 3, cell 3, cell 3, cell 5,
     cell 2, cell 2, cell 2, cell 1, cell 4, cell 4, cell 4, cellT 5],
    [cellT 2, cell 6, cell 5, cell 1, cell 4, cell 4, cell 4, cell 5,
     cell 2, cell 5, cell 2, cell 1, cell 4, cell 5, cell 5, cellT 5],
    [cell 2, cell 6, cell 2, cell 1, cell 3, cell 3, cell 3, cell 5,
     cell 2, cell 2, cell 2, cell 1, cell 4, cell 4, cell 4, cellT 5],
    [cellT 2, cellP 5, cell 5, cell 1, cell 4, cell 4, cell 4, cell 5,
     cell 2, cellP 4, cell 2, cell 1, cellP 4, cellP 4, cellP 4, cellT 5],
    [cell 2, cell 6, cell 2, cell 1, cell 3, cell 3, cell 5, cell 5,
     cell 2, cell 2, cell 2, cell 2, cell 4, cell 4, cell 6, cellT 5],
    [cellT 2, cellP 5, cell 5, cell 1, cell 4, cell 4, cell 6, cell 5,
     cell 2, cellP 4, cell 3, cell 3, cell 4, cellP 4, cell 7, cellT 5],
    [cell 2, cellD 6, cell 2, cell 1, cell 3, cellD 3, cell 5, cell 5,
     cell 2, cellD 2, cell 2, cell 1, cell 4, cellD 4, cell 6, cellT 5],
    [cellT 2, cellDP 5, cellD 5, cell 1, cell 4, cellD 4, cell 6, cell 5,
     cell 2, cellDP 4, cell 4, cell 1, cell 4, cellDP 4, cell 7, cellT 5]
  ]

/-- The cell of an opcode byte: row by high nibble, column by low nibble. -/
def cycleCell (op : Byte) : CycleCell :=
  (cycleGrid.getD (op.toNat / 16) []).getD (op.toNat % 16) (cell 0)

/-- The page boundary of R352 for an indexed memory operand: `abs,X` and `abs,Y` when the index carries out of the low
byte of the operand; `(zp),Y` when it carries out of the low byte of the pointer. -/
def crossesPage (m : AddrMode) (s : State) : Bool :=
  match m with
  | .absX a => decide (255 < a.toNat % 256 + s.x.toNat)
  | .absY a => decide (255 < a.toNat % 256 + s.y.toNat)
  | .indY z => decide (255 < (s.read16zp z).1.toNat % 256 + s.y.toNat)
  | _ => false

/-- The memory operand of an operand form. -/
def sourceMemOperand : Source → Option AddrMode
  | .imm _ => none
  | .mem m => some m

/-- The memory operand of a read-modify-write form. -/
def targetMemOperand : Target → Option AddrMode
  | .acc => none
  | .mem m => some m

/-- The memory operand of an instruction, where it has one of the nine data modes. -/
def memOperand : Instr → Option AddrMode
  | .adc s | .and s | .bit s | .cmp s | .cpx s | .cpy s | .eor s | .lda s | .ldx s | .ldy s | .ora s | .sbc s =>
    sourceMemOperand s
  | .sta m | .stx m | .sty m | .stz m | .trb m | .tsb m => some m
  | .asl t | .lsr t | .rol t | .ror t | .inc t | .dec t => targetMemOperand t
  | .rmb0 _ | .rmb1 _ | .rmb2 _ | .rmb3 _ | .rmb4 _ | .rmb5 _ | .rmb6 _ | .rmb7 _
  | .smb0 _ | .smb1 _ | .smb2 _ | .smb3 _ | .smb4 _ | .smb5 _ | .smb6 _ | .smb7 _
  | .bbr0 .. | .bbr1 .. | .bbr2 .. | .bbr3 .. | .bbr4 .. | .bbr5 .. | .bbr6 .. | .bbr7 ..
  | .bbs0 .. | .bbs1 .. | .bbs2 .. | .bbs3 .. | .bbs4 .. | .bbs5 .. | .bbs6 .. | .bbs7 .. => none
  | .bpl _ | .bmi _ | .bvc _ | .bvs _ | .bra _ | .bcc _ | .bcs _ | .bne _ | .beq _ | .jmp _ | .jsr _ => none
  | .brk | .clc | .cld | .cli | .clv | .sec | .sed | .sei | .dex | .dey | .inx | .iny => none
  | .pha | .php | .phx | .phy | .pla | .plp | .plx | .ply | .rti | .rts => none
  | .tax | .tay | .tsx | .txa | .tya | .txs | .nop | .nop1 _ | .nop2 .. | .nop3 .. | .wai | .stp => none

/-- Whether a conditional branch is taken (R131 to R141), and its offset byte; none for every other instruction, BRA among
them, whose cell has no term. -/
def branchOf (i : Instr) (s : State) : Option (Bool × Byte) :=
  match i with
  | .bpl o => some (!s.n, o)
  | .bmi o => some (s.n, o)
  | .bvc o => some (!s.v, o)
  | .bvs o => some (s.v, o)
  | .bcc o => some (!s.c, o)
  | .bcs o => some (s.c, o)
  | .bne o => some (!s.z, o)
  | .beq o => some (s.z, o)
  | .bbr0 z o => some (!(s.load (zext z)).1.getLsbD 0, o)
  | .bbr1 z o => some (!(s.load (zext z)).1.getLsbD 1, o)
  | .bbr2 z o => some (!(s.load (zext z)).1.getLsbD 2, o)
  | .bbr3 z o => some (!(s.load (zext z)).1.getLsbD 3, o)
  | .bbr4 z o => some (!(s.load (zext z)).1.getLsbD 4, o)
  | .bbr5 z o => some (!(s.load (zext z)).1.getLsbD 5, o)
  | .bbr6 z o => some (!(s.load (zext z)).1.getLsbD 6, o)
  | .bbr7 z o => some (!(s.load (zext z)).1.getLsbD 7, o)
  | .bbs0 z o => some ((s.load (zext z)).1.getLsbD 0, o)
  | .bbs1 z o => some ((s.load (zext z)).1.getLsbD 1, o)
  | .bbs2 z o => some ((s.load (zext z)).1.getLsbD 2, o)
  | .bbs3 z o => some ((s.load (zext z)).1.getLsbD 3, o)
  | .bbs4 z o => some ((s.load (zext z)).1.getLsbD 4, o)
  | .bbs5 z o => some ((s.load (zext z)).1.getLsbD 5, o)
  | .bbs6 z o => some ((s.load (zext z)).1.getLsbD 6, o)
  | .bbs7 z o => some ((s.load (zext z)).1.getLsbD 7, o)
  | .bra _ | .jmp _ | .jsr _ | .rts | .rti | .brk => none
  | .adc _ | .and _ | .bit _ | .cmp _ | .cpx _ | .cpy _ | .eor _ | .lda _ | .ldx _ | .ldy _ | .ora _ | .sbc _ => none
  | .sta _ | .stx _ | .sty _ | .stz _ | .trb _ | .tsb _ => none
  | .asl _ | .lsr _ | .rol _ | .ror _ | .inc _ | .dec _ => none
  | .rmb0 _ | .rmb1 _ | .rmb2 _ | .rmb3 _ | .rmb4 _ | .rmb5 _ | .rmb6 _ | .rmb7 _
  | .smb0 _ | .smb1 _ | .smb2 _ | .smb3 _ | .smb4 _ | .smb5 _ | .smb6 _ | .smb7 _ => none
  | .clc | .cld | .cli | .clv | .sec | .sed | .sei | .dex | .dey | .inx | .iny => none
  | .pha | .php | .phx | .phy | .pla | .plp | .plx | .ply => none
  | .tax | .tay | .tsx | .txa | .tya | .txs | .nop | .nop1 _ | .nop2 .. | .nop3 .. | .wai | .stp => none

/-- The terms of R352 as numbers, for an instruction with this cell: d, p and t+t*p. -/
def cycleTerms (k : CycleCell) (i : Instr) (s : State) : Nat :=
  let d := if k.d = true ∧ s.d = true then 1 else 0
  let p := match memOperand i with
    | some m => if k.p = true ∧ crossesPage m s = true then 1 else 0
    | none => 0
  let t := match branchOf i s with
    | some (true, o) =>
      let next := s.pc + BitVec.ofNat 16 i.len
      if k.branch = false then 0 else if (next + sext o).toNat / 256 = next.toNat / 256 then 1 else 2
    | _ => 0
  d + p + t

end Sys2Proof.Machine
end

