-- ==== Sys2Proof/Certificates/Slice0/Obligations.lean ====
section
/-! DEFINITION. The statements for the provers, in the order of OBLIGATIONS.json. Each docstring names the rules of spec/ it
rests on and what of them the spec itself marks as a decision or as general knowledge. -/

open Sys2Proof Sys2Proof.Machine

/-- Bytes written out from the encoding tables decode to the instructions they stand for. A few words of every family,
from R105 and the operand layout of R81. -/
def Obligations.WrittenOutBytesDecode : Prop :=
  decode [0x4C#8, 0x34#8, 0x12#8] = .ok (.jmp (.abs 0x1234#16), []) ∧
  decode [0x69#8, 0x50#8] = .ok (.adc (.imm 0x50#8), []) ∧
  decode [0x91#8, 0x12#8] = .ok (.sta (.indY 0x12#8), []) ∧
  decode [0xB6#8, 0x12#8] = .ok (.ldx (.mem (.zpY 0x12#8)), []) ∧
  decode [0x7E#8, 0x34#8, 0x12#8] = .ok (.ror (.mem (.absX 0x1234#16)), []) ∧
  decode [0xFF#8, 0x12#8, 0xFB#8] = .ok (.bbs7 0x12#8 0xFB#8, []) ∧
  decode [0x37#8, 0x12#8, 0xEA#8] = .ok (.rmb3 0x12#8, [0xEA#8]) ∧
  decode [0x0C#8, 0x34#8, 0x12#8] = .ok (.tsb (.abs 0x1234#16), []) ∧
  decode [0x10#8, 0x05#8] = .ok (.bpl 0x05#8, []) ∧
  decode [0x48#8] = .ok (.pha, []) ∧
  decode [0x9A#8] = .ok (.txs, []) ∧
  decode [0xDB#8] = .ok (.stp, []) ∧
  decode [0x00#8, 0xFF#8] = .ok (.brk, [0xFF#8]) ∧
  decode [0x5C#8, 0x00#8, 0x80#8] = .ok (.nop3 0x5C#8 0x00#8 0x80#8, []) ∧
  decode [] = .error .noBytes ∧
  decode [0x4C#8, 0x34#8] = .error (.missingOperandBytes 0x4C#8)

/-- Decoding the bytes of any well-formed instruction gives it back and leaves the bytes after it. The encoder is
written from R105 and R82, the decoder from the map of R110: that they agree on every operand is the round trip. -/
def Obligations.DecodeOfEncodeGivesTheInstructionBack : Prop :=
  ∀ (i : Instr) (rest : List Byte), i.wellFormed = true → decode (encode i ++ rest) = .ok (i, rest)

/-- Whatever decodes is well formed, and encoding it gives back the very bytes that were decoded. All 256 opcode bytes
are defined (R83): only missing bytes are refused. -/
def Obligations.EncodeOfDecodeGivesTheBytesBack : Prop :=
  ∀ (bytes : List Byte) (i : Instr) (rest : List Byte), decode bytes = .ok (i, rest) →
    i.wellFormed = true ∧ encode i ++ rest = bytes

/-- LEN of every opcode byte is the grid of R84. R84, the whole grid, against the decoder and against the length by
which PC advances. -/
def Obligations.LengthOfEveryOpcodeByte : Prop :=
  ∀ op b1 b2 : Byte, opcodeLength op = lengthCell op ∧ (decodeOpcode op b1 b2).len = lengthCell op

/-- The cycle count of every well-formed instruction is its cell of the CYCLES grid plus its terms. R351 and R352.
Which addresses p compares is marked general knowledge by R352; the flat 3 of BRA and the 6 of JMP (abs) are choices
of 90_conflicts.md C4 and C3 (log 17). -/
def Obligations.CyclesFollowTheGrid : Prop :=
  ∀ (i : Instr) (s : State) (op : Byte) (rest : List Byte), i.wellFormed = true → encode i = op :: rest →
    instrCycles i s = (cycleCell op).base + cycleTerms (cycleCell op) i s

/-- A read answers by what stands at the address, and changes nothing but the IO history and the free-value index. R58
and R59. What IO and Unmapped answer is free (logs 6, 7): the second and third clause are the form the model gives
that freedom. -/
def Obligations.ReadAnswersByRegion : Prop :=
  ∀ (b : Word) (s : State),
    (s.isMemory b → s.load b = (s.peek b, s)) ∧
    (s.region b = .io → s.load b = (Config.ioRead b s.ioLog, { s with ioLog := .read b :: s.ioLog })) ∧
    (s.region b = .unmapped → (s.load b).2 = { s with draws := s.draws + 1 })

/-- A write replaces one byte of RAM, is handed to IO, and has no effect on ROM and Unmapped. R58 and R59. That a
write to IO is handed over by standing in the history `ioLog` is log 6, and that a memory has a canonical form, which
a write keeps, is log 1: both the choice of the model. -/
def Obligations.WriteActsByRegion : Prop :=
  ∀ (b : Word) (v : Byte) (s : State),
    (s.mem.wf = true → s.isRam b → (s.store b v).peek b = v) ∧
    (∀ e : Word, e ≠ b → (s.store b v).peek e = s.peek e) ∧
    (¬ s.isRam b → (s.store b v).peek b = s.peek b) ∧
    (s.region b = .io → (s.store b v).ioLog = .write b v :: s.ioLog) ∧
    (s.region b ≠ .io → (s.store b v).ioLog = s.ioLog) ∧
    (s.mem.wf = true → (s.store b v).mem.wf = true)

/-- 16-bit reads take the low byte first, the successor modulo 65536, or modulo 256 in zero page. R56, R57, which the
spec marks as general knowledge (decisions D3, D4, D5). -/
def Obligations.SixteenBitReadsAreLittleEndianAndWrap : Prop :=
  (∀ (b : Word) (s : State), s.isMemory b → s.isMemory (BitVec.ofNat 16 ((b.toNat + 1) % 65536)) →
    s.read16 b =
      (BitVec.ofNat 16 ((s.peek b).toNat + 256 * (s.peek (BitVec.ofNat 16 ((b.toNat + 1) % 65536))).toNat), s)) ∧
  (∀ (z : Byte) (s : State), s.isMemory (BitVec.ofNat 16 z.toNat) →
    s.isMemory (BitVec.ofNat 16 ((z.toNat + 1) % 256)) →
    s.read16zp z =
      (BitVec.ofNat 16 ((s.peek (BitVec.ofNat 16 z.toNat)).toNat +
        256 * (s.peek (BitVec.ofNat 16 ((z.toNat + 1) % 256))).toNat), s))

/-- The effective address of each of the nine data modes, as a number. R91 to R99; the spec marks all but zp and abs
as general knowledge (decisions D4, D5, D34). -/
def Obligations.EffectiveAddressOfEveryMode : Prop :=
  ∀ s : State,
    (∀ z : Byte, effAddr (.zp z) s = (BitVec.ofNat 16 z.toNat, s)) ∧
    (∀ z : Byte, effAddr (.zpX z) s = (BitVec.ofNat 16 ((z.toNat + s.x.toNat) % 256), s)) ∧
    (∀ z : Byte, effAddr (.zpY z) s = (BitVec.ofNat 16 ((z.toNat + s.y.toNat) % 256), s)) ∧
    (∀ b : Word, effAddr (.abs b) s = (b, s)) ∧
    (∀ b : Word, effAddr (.absX b) s = (BitVec.ofNat 16 ((b.toNat + s.x.toNat) % 65536), s)) ∧
    (∀ b : Word, effAddr (.absY b) s = (BitVec.ofNat 16 ((b.toNat + s.y.toNat) % 65536), s)) ∧
    (∀ (z : Byte) (l h : Word),
      l = BitVec.ofNat 16 ((z.toNat + s.x.toNat) % 256) → h = BitVec.ofNat 16 ((z.toNat + s.x.toNat + 1) % 256) →
      s.isMemory l → s.isMemory h →
      effAddr (.indX z) s = (BitVec.ofNat 16 ((s.peek l).toNat + 256 * (s.peek h).toNat), s)) ∧
    (∀ (z : Byte) (l h : Word),
      l = BitVec.ofNat 16 z.toNat → h = BitVec.ofNat 16 ((z.toNat + 1) % 256) →
      s.isMemory l → s.isMemory h →
      effAddr (.indY z) s =
        (BitVec.ofNat 16 (((s.peek l).toNat + 256 * (s.peek h).toNat + s.y.toNat) % 65536), s)) ∧
    (∀ (z : Byte) (l h : Word),
      l = BitVec.ofNat 16 z.toNat → h = BitVec.ofNat 16 ((z.toNat + 1) % 256) →
      s.isMemory l → s.isMemory h →
      effAddr (.ind z) s = (BitVec.ofNat 16 ((s.peek l).toNat + 256 * (s.peek h).toNat), s))

/-- An immediate operand is the byte itself; a memory operand is the byte at the effective address. R90 and R104. -/
def Obligations.OperandIsTheImmediateOrTheByteAtTheEffectiveAddress : Prop :=
  ∀ s : State,
    (∀ b : Byte, operand (.imm b) s = (b, s)) ∧
    (∀ (m : AddrMode) (e : Word), effAddr m s = (e, s) → s.isMemory e → operand (.mem m) s = (s.peek e, s))

/-- A push stores at the current SP and then decrements it; a pull increments SP and then reads. R61 and R62; that the
stack lies in page one is R60 (decision D6). -/
def Obligations.PushStoresThenDecrementsAndPullIncrementsThenReads : Prop :=
  (∀ (v : Byte) (s : State),
    s.push8 v = { s.store (BitVec.ofNat 16 (256 + s.sp.toNat)) v with sp := s.sp - 1 } ∧
    (s.mem.wf = true → s.isRam (BitVec.ofNat 16 (256 + s.sp.toNat)) →
      (s.push8 v).peek (BitVec.ofNat 16 (256 + s.sp.toNat)) = v)) ∧
  (∀ s : State,
    s.pull8 = State.load (BitVec.ofNat 16 (256 + (s.sp + 1).toNat)) { s with sp := s.sp + 1 } ∧
    s.pull8.2.sp = s.sp + 1 ∧ s.pull8.2.mem = s.mem)

/-- SP wraps modulo 256 and the stack address never leaves page one. R60 and R63, which the spec marks as general
knowledge (decision D6). -/
def Obligations.StackWrapsInPageOne : Prop :=
  (∀ sp : Byte, (stackAddr sp).toNat = 256 + sp.toNat) ∧
  (∀ (v : Byte) (s : State), s.sp = 0x00#8 → s.push8 v = { s.store 0x0100#16 v with sp := 0xFF#8 }) ∧
  (∀ s : State, s.sp = 0xFF#8 → s.pull8 = State.load 0x0100#16 { s with sp := 0x00#8 }) ∧
  (∀ (v : Byte) (s : State), s.mem.wf = true → s.isRam (stackAddr s.sp) →
    (s.push8 v).pull8.1 = v ∧ (s.push8 v).pull8.2.sp = s.sp)

/-- The stacked image of SR, bit by bit, and its inverse, which ignores bits 5 and 4. R34, R27, R28 (decision D8). -/
def Obligations.StatusImageAndItsInverse : Prop :=
  ∀ (brk : Bool) (s t : State) (q : Byte),
    ((s.srImage brk).getLsbD 7 = s.n ∧ (s.srImage brk).getLsbD 6 = s.v ∧ (s.srImage brk).getLsbD 5 = true ∧
      (s.srImage brk).getLsbD 4 = brk ∧ (s.srImage brk).getLsbD 3 = s.d ∧ (s.srImage brk).getLsbD 2 = s.i ∧
      (s.srImage brk).getLsbD 1 = s.z ∧ (s.srImage brk).getLsbD 0 = s.c) ∧
    t.srLoad (s.srImage brk) = { t with n := s.n, v := s.v, d := s.d, i := s.i, z := s.z, c := s.c } ∧
    t.srLoad (q ||| 0x30#8) = t.srLoad q ∧ t.srLoad (q &&& 0xCF#8) = t.srLoad q

/-- No instruction faults and none is refused: every instruction answers a next state from every state. R301, which
the spec marks as derived from the completeness of the opcode map. -/
def Obligations.EveryInstructionCompletes : Prop :=
  ∀ (i : Instr) (s : State), ∃ t, exec i s = .next t

/-- LDA, LDX, LDY put their operand into the register and set N and Z from it. Operation and Flags of R194, R195,
R196; N and Z as R33 reads them (decision D20). -/
def Obligations.LoadsSetTheRegisterAndNZ : Prop :=
  ∀ (src : Source) (s : State),
    (∃ t, exec (.lda src) s = .next t ∧
      t.a = (operand src s).1 ∧ t.showsNZ (operand src s).1 ∧ t.pc = s.pc + BitVec.ofNat 16 src.len) ∧
    (∃ t, exec (.ldx src) s = .next t ∧
      t.x = (operand src s).1 ∧ t.showsNZ (operand src s).1 ∧ t.pc = s.pc + BitVec.ofNat 16 src.len) ∧
    (∃ t, exec (.ldy src) s = .next t ∧
      t.y = (operand src s).1 ∧ t.showsNZ (operand src s).1 ∧ t.pc = s.pc + BitVec.ofNat 16 src.len)

/-- STA, STX, STY, STZ write A, X, Y or zero at the effective address, and nothing else happens there. Operation of
R265, R271, R272, R273 with R58, R59 and R104. The clause on IO is in the form the model chose: the write stands in
the history `ioLog` (log 6), after the accesses that form the address and no others (log 11). -/
def Obligations.StoresWriteTheByteAtTheEffectiveAddress : Prop :=
  ∀ (m : AddrMode) (s : State),
    (∃ t, exec (.sta m) s = .next t ∧ t.pc = s.pc + BitVec.ofNat 16 m.len ∧
      (s.mem.wf = true → s.isRam (effAddr m s).1 → t.peek (effAddr m s).1 = s.a) ∧
      (¬ s.isRam (effAddr m s).1 → t.peek (effAddr m s).1 = s.peek (effAddr m s).1) ∧
      (s.region (effAddr m s).1 = .io → t.ioLog = .write (effAddr m s).1 s.a :: (effAddr m s).2.ioLog)) ∧
    (∃ t, exec (.stx m) s = .next t ∧ t.pc = s.pc + BitVec.ofNat 16 m.len ∧
      (s.mem.wf = true → s.isRam (effAddr m s).1 → t.peek (effAddr m s).1 = s.x) ∧
      (¬ s.isRam (effAddr m s).1 → t.peek (effAddr m s).1 = s.peek (effAddr m s).1) ∧
      (s.region (effAddr m s).1 = .io → t.ioLog = .write (effAddr m s).1 s.x :: (effAddr m s).2.ioLog)) ∧
    (∃ t, exec (.sty m) s = .next t ∧ t.pc = s.pc + BitVec.ofNat 16 m.len ∧
      (s.mem.wf = true → s.isRam (effAddr m s).1 → t.peek (effAddr m s).1 = s.y) ∧
      (¬ s.isRam (effAddr m s).1 → t.peek (effAddr m s).1 = s.peek (effAddr m s).1) ∧
      (s.region (effAddr m s).1 = .io → t.ioLog = .write (effAddr m s).1 s.y :: (effAddr m s).2.ioLog)) ∧
    (∃ t, exec (.stz m) s = .next t ∧ t.pc = s.pc + BitVec.ofNat 16 m.len ∧
      (s.mem.wf = true → s.isRam (effAddr m s).1 → t.peek (effAddr m s).1 = 0x00#8) ∧
      (¬ s.isRam (effAddr m s).1 → t.peek (effAddr m s).1 = s.peek (effAddr m s).1) ∧
      (s.region (effAddr m s).1 = .io → t.ioLog = .write (effAddr m s).1 0x00#8 :: (effAddr m s).2.ioLog))

/-- AND, ORA, EOR combine A with the operand bit by bit and set N and Z from the result. Operation and Flags of R123,
R219, R177; N and Z as R33 reads them (decision D20). -/
def Obligations.LogicalInstructionsCombineAWithTheOperand : Prop :=
  ∀ (src : Source) (s : State),
    (∃ t, exec (.and src) s = .next t ∧
      t.a = s.a &&& (operand src s).1 ∧ t.showsNZ (s.a &&& (operand src s).1) ∧
      t.pc = s.pc + BitVec.ofNat 16 src.len) ∧
    (∃ t, exec (.ora src) s = .next t ∧
      t.a = s.a ||| (operand src s).1 ∧ t.showsNZ (s.a ||| (operand src s).1) ∧
      t.pc = s.pc + BitVec.ofNat 16 src.len) ∧
    (∃ t, exec (.eor src) s = .next t ∧
      t.a = s.a ^^^ (operand src s).1 ∧ t.showsNZ (s.a ^^^ (operand src s).1) ∧
      t.pc = s.pc + BitVec.ofNat 16 src.len)

/-- BIT sets Z from A AND the operand, and N and V from its bits 7 and 6 but for the immediate form. Operation and
Flags of R150; when Z is 1 is decision D20 of the spec. -/
def Obligations.BitTestsTheOperandAgainstA : Prop :=
  ∀ s : State,
    (∀ m : AddrMode, ∃ t, exec (.bit (.mem m)) s = .next t ∧
      (t.z = true ↔ s.a &&& (operand (.mem m) s).1 = 0x00#8) ∧ t.n = (operand (.mem m) s).1.getLsbD 7 ∧
      t.v = (operand (.mem m) s).1.getLsbD 6 ∧ t.pc = s.pc + BitVec.ofNat 16 m.len) ∧
    (∀ b : Byte, ∃ t, exec (.bit (.imm b)) s = .next t ∧
      (t.z = true ↔ s.a &&& b = 0x00#8) ∧ t.n = s.n ∧ t.v = s.v ∧ t.pc = s.pc + 2#16)

/-- Binary ADC: the sum with carry modulo 256, C the carry out, V the signed overflow. R120 and R121; the meaning of V
and of N and Z is decision D20 of the spec. -/
def Obligations.AdcBinaryIsTheSumWithCarryAndSignedOverflow : Prop :=
  ∀ (src : Source) (s : State) (m : Byte), s.d = false → (operand src s).1 = m →
    ∃ t, exec (.adc src) s = .next t ∧
      t.a.toNat = (s.a.toNat + m.toNat + b2n s.c) % 256 ∧
      (t.c = true ↔ 255 < s.a.toNat + m.toNat + b2n s.c) ∧
      (t.v = true ↔ s.a.toInt + m.toInt + (b2n s.c : Int) < -128 ∨ 127 < s.a.toInt + m.toInt + (b2n s.c : Int)) ∧
      t.showsNZ t.a ∧ t.pc = s.pc + BitVec.ofNat 16 src.len

/-- Binary SBC: the difference with borrow modulo 256, C the absence of a borrow, V the signed overflow. R253 and its
corner cases; the adder identity and the flags are decision D20 of the spec. -/
def Obligations.SbcBinaryIsTheDifferenceWithBorrowAndSignedOverflow : Prop :=
  ∀ (src : Source) (s : State) (m : Byte), s.d = false → (operand src s).1 = m →
    ∃ t, exec (.sbc src) s = .next t ∧
      (t.a.toNat : Int) = ((s.a.toNat : Int) - m.toNat - (1 - b2n s.c)) % 256 ∧
      (t.c = true ↔ m.toNat + (1 - b2n s.c) ≤ s.a.toNat) ∧
      (t.v = true ↔ s.a.toInt - m.toInt - (1 - (b2n s.c : Int)) < -128 ∨
        127 < s.a.toInt - m.toInt - (1 - (b2n s.c : Int))) ∧
      t.showsNZ t.a ∧ t.pc = s.pc + BitVec.ofNat 16 src.len

/-- Decimal ADC of valid BCD: the two-digit decimal sum and its carry; every other result is free. R120 and R122,
which the spec marks as general knowledge (decision D19); the free model is log 10. -/
def Obligations.AdcDecimalAddsTwoDigits : Prop :=
  ∀ (src : Source) (s : State) (m : Byte), s.d = true → (operand src s).1 = m →
    ∃ t, exec (.adc src) s = .next t ∧
      t.showsNZ t.a ∧ t.pc = s.pc + BitVec.ofNat 16 src.len ∧ t.v = (Config.decimalAdc s.a m s.c).v ∧
      (validBcd s.a = true → validBcd m = true →
        validBcd t.a = true ∧ bcdVal t.a = (bcdVal s.a + bcdVal m + b2n s.c) % 100 ∧
        (t.c = true ↔ 100 ≤ bcdVal s.a + bcdVal m + b2n s.c)) ∧
      (¬ (validBcd s.a = true ∧ validBcd m = true) →
        t.a = (Config.decimalAdc s.a m s.c).r ∧ t.c = (Config.decimalAdc s.a m s.c).c)

/-- Decimal SBC of valid BCD: the two-digit decimal difference and its borrow; every other result is free. R253 and
R254, which the spec marks as general knowledge (decision D19); the free model is log 10. -/
def Obligations.SbcDecimalSubtractsTwoDigits : Prop :=
  ∀ (src : Source) (s : State) (m : Byte), s.d = true → (operand src s).1 = m →
    ∃ t, exec (.sbc src) s = .next t ∧
      t.showsNZ t.a ∧ t.pc = s.pc + BitVec.ofNat 16 src.len ∧ t.v = (Config.decimalSbc s.a m s.c).v ∧
      (validBcd s.a = true → validBcd m = true →
        validBcd t.a = true ∧
        (bcdVal t.a : Int) = ((bcdVal s.a : Int) - bcdVal m - (1 - b2n s.c)) % 100 ∧
        (t.c = true ↔ (0 : Int) ≤ (bcdVal s.a : Int) - bcdVal m - (1 - b2n s.c))) ∧
      (¬ (validBcd s.a = true ∧ validBcd m = true) →
        t.a = (Config.decimalSbc s.a m s.c).r ∧ t.c = (Config.decimalSbc s.a m s.c).c)

/-- CMP, CPX, CPY: C when the register is at least the operand, Z when equal, N bit 7 of the difference. R170 to R173;
that C is the absence of a borrow is decision D20 of the spec. -/
def Obligations.ComparesSetCarryZeroAndSign : Prop :=
  ∀ (src : Source) (s : State),
    (∃ t, exec (.cmp src) s = .next t ∧
      (t.c = true ↔ (operand src s).1.toNat ≤ s.a.toNat) ∧ (t.z = true ↔ s.a = (operand src s).1) ∧
      (t.n = true ↔ 128 ≤ (s.a.toNat + 256 - (operand src s).1.toNat) % 256) ∧
      t.pc = s.pc + BitVec.ofNat 16 src.len) ∧
    (∃ t, exec (.cpx src) s = .next t ∧
      (t.c = true ↔ (operand src s).1.toNat ≤ s.x.toNat) ∧ (t.z = true ↔ s.x = (operand src s).1) ∧
      (t.n = true ↔ 128 ≤ (s.x.toNat + 256 - (operand src s).1.toNat) % 256) ∧
      t.pc = s.pc + BitVec.ofNat 16 src.len) ∧
    (∃ t, exec (.cpy src) s = .next t ∧
      (t.c = true ↔ (operand src s).1.toNat ≤ s.y.toNat) ∧ (t.z = true ↔ s.y = (operand src s).1) ∧
      (t.n = true ↔ 128 ≤ (s.y.toNat + 256 - (operand src s).1.toNat) % 256) ∧
      t.pc = s.pc + BitVec.ofNat 16 src.len)

/-- ASL, LSR, ROL, ROR in A and in memory: the new byte, C the bit shifted out, N and Z of the new byte. Operation of
R124, R210, R239, R240 with R104; N and Z as R33 reads them (decision D20). The clause of `ReplacesOperand` on IO, one
read and one write in the history `ioLog`, is the form of log 6, which the model chose, with no further access (log
11). -/
def Obligations.ShiftsAndRotatesMoveOneBit : Prop :=
  ReplacesOperand .asl (fun v _ => BitVec.ofNat 8 (2 * v.toNat)) (fun v _ => decide (128 ≤ v.toNat)) ∧
  ReplacesOperand .lsr (fun v _ => BitVec.ofNat 8 (v.toNat / 2)) (fun v _ => decide (v.toNat % 2 = 1)) ∧
  ReplacesOperand .rol (fun v c => BitVec.ofNat 8 (2 * v.toNat + b2n c)) (fun v _ => decide (128 ≤ v.toNat)) ∧
  ReplacesOperand .ror (fun v c => BitVec.ofNat 8 (v.toNat / 2 + 128 * b2n c)) (fun v _ => decide (v.toNat % 2 = 1))

/-- INC and DEC in A and in memory: plus or minus one modulo 256, N and Z of the new byte, C kept. Operation of R174
and R178 with R104; N and Z as R33 reads them (decision D20). The clause of `ReplacesOperand` on IO, one read and one
write in the history `ioLog`, is the form of log 6, which the model chose, with no further access (log 11). -/
def Obligations.IncAndDecCountModulo256AndKeepCarry : Prop :=
  ReplacesOperand .inc (fun v _ => BitVec.ofNat 8 (v.toNat + 1)) (fun _ c => c) ∧
  ReplacesOperand .dec (fun v _ => BitVec.ofNat 8 (v.toNat + 255)) (fun _ c => c)

/-- INX, INY, DEX, DEY: the register plus or minus one modulo 256, N and Z of the result, no other register or flag.
R179, R180, R175, R176 whole, the encoding and the cycles included; N and Z as R33 reads them. -/
def Obligations.IndexRegistersCountModulo256 : Prop :=
  ∀ s : State,
    (encode .inx = [0xE8#8] ∧ instrCycles .inx s = 2 ∧
      ∃ n z, exec .inx s = .next { s with x := s.x + 1, n := n, z := z, pc := s.pc + 1 } ∧
        (n = true ↔ 128 ≤ (s.x + 1).toNat) ∧ (z = true ↔ s.x + 1 = 0x00#8)) ∧
    (encode .iny = [0xC8#8] ∧ instrCycles .iny s = 2 ∧
      ∃ n z, exec .iny s = .next { s with y := s.y + 1, n := n, z := z, pc := s.pc + 1 } ∧
        (n = true ↔ 128 ≤ (s.y + 1).toNat) ∧ (z = true ↔ s.y + 1 = 0x00#8)) ∧
    (encode .dex = [0xCA#8] ∧ instrCycles .dex s = 2 ∧
      ∃ n z, exec .dex s = .next { s with x := s.x - 1, n := n, z := z, pc := s.pc + 1 } ∧
        (n = true ↔ 128 ≤ (s.x - 1).toNat) ∧ (z = true ↔ s.x - 1 = 0x00#8)) ∧
    (encode .dey = [0x88#8] ∧ instrCycles .dey s = 2 ∧
      ∃ n z, exec .dey s = .next { s with y := s.y - 1, n := n, z := z, pc := s.pc + 1 } ∧
        (n = true ↔ 128 ≤ (s.y - 1).toNat) ∧ (z = true ↔ s.y - 1 = 0x00#8))

/-- TRB and TSB: Z from A AND the old byte, then the bits of A are cleared or set in it. Operation of R287 and R288
with R59 and R104; that Z tests the old byte is decision D24 of the spec. The clause on IO, one read and one write in
the history `ioLog`, is the form of log 6, which the model chose, with no further access (log 11). -/
def Obligations.TestAndSetOrResetBits : Prop :=
  ∀ (m : AddrMode) (s : State),
    (∃ t, exec (.trb m) s = .next t ∧ (t.z = true ↔ s.a &&& (loadMem m s).1 = 0x00#8) ∧
      t.pc = s.pc + BitVec.ofNat 16 m.len ∧
      (s.mem.wf = true → s.isRam (effAddr m s).1 → ∀ k : Nat, k < 8 →
        (t.peek (effAddr m s).1).getLsbD k = if s.a.getLsbD k then false else (loadMem m s).1.getLsbD k) ∧
      (¬ s.isRam (effAddr m s).1 → t.peek (effAddr m s).1 = s.peek (effAddr m s).1) ∧
      (s.region (effAddr m s).1 = .io → ∃ w : Byte,
        t.ioLog = .write (effAddr m s).1 w :: .read (effAddr m s).1 :: (effAddr m s).2.ioLog ∧
        ∀ k : Nat, k < 8 → w.getLsbD k = if s.a.getLsbD k then false else (loadMem m s).1.getLsbD k)) ∧
    (∃ t, exec (.tsb m) s = .next t ∧ (t.z = true ↔ s.a &&& (loadMem m s).1 = 0x00#8) ∧
      t.pc = s.pc + BitVec.ofNat 16 m.len ∧
      (s.mem.wf = true → s.isRam (effAddr m s).1 → ∀ k : Nat, k < 8 →
        (t.peek (effAddr m s).1).getLsbD k = if s.a.getLsbD k then true else (loadMem m s).1.getLsbD k) ∧
      (¬ s.isRam (effAddr m s).1 → t.peek (effAddr m s).1 = s.peek (effAddr m s).1) ∧
      (s.region (effAddr m s).1 = .io → ∃ w : Byte,
        t.ioLog = .write (effAddr m s).1 w :: .read (effAddr m s).1 :: (effAddr m s).2.ioLog ∧
        ∀ k : Nat, k < 8 → w.getLsbD k = if s.a.getLsbD k then true else (loadMem m s).1.getLsbD k))

/-- RMB n clears and SMB n sets bit n of the zero-page byte; its other bits are kept. Operation of R238 and R255 with
R59 and R104. The clause on IO, one read and one write in the history `ioLog`, is the form of log 6, which the model
chose, with no further access (log 11). -/
def Obligations.RmbAndSmbChangeOneBit : Prop :=
  ∀ (n : Fin 8) (z : Byte) (s : State),
    (∃ t, exec (rmb n z) s = .next t ∧ t.pc = s.pc + 2#16 ∧
      (s.mem.wf = true → s.isRam (zext z) → ∀ k : Nat, k < 8 →
        (t.peek (zext z)).getLsbD k = if k = n.val then false else (s.peek (zext z)).getLsbD k) ∧
      (¬ s.isRam (zext z) → t.peek (zext z) = s.peek (zext z)) ∧
      (s.region (zext z) = .io → ∃ w : Byte, t.ioLog = .write (zext z) w :: .read (zext z) :: s.ioLog ∧
        ∀ k : Nat, k < 8 → w.getLsbD k = if k = n.val then false else (s.load (zext z)).1.getLsbD k)) ∧
    (∃ t, exec (smb n z) s = .next t ∧ t.pc = s.pc + 2#16 ∧
      (s.mem.wf = true → s.isRam (zext z) → ∀ k : Nat, k < 8 →
        (t.peek (zext z)).getLsbD k = if k = n.val then true else (s.peek (zext z)).getLsbD k) ∧
      (¬ s.isRam (zext z) → t.peek (zext z) = s.peek (zext z)) ∧
      (s.region (zext z) = .io → ∃ w : Byte, t.ioLog = .write (zext z) w :: .read (zext z) :: s.ioLog ∧
        ∀ k : Nat, k < 8 → w.getLsbD k = if k = n.val then true else (s.load (zext z)).1.getLsbD k))

/-- BBR n branches when bit n of the zero-page byte is 0, BBS n when it is 1; nothing but PC changes. R131, R132; that
the offset is signed and counted from the next instruction is R130, which the spec marks as general knowledge
(decision D21). -/
def Obligations.BbrAndBbsBranchOnOneBit : Prop :=
  ∀ (n : Fin 8) (z off : Byte) (s : State),
    (∃ t, exec (bbr n z off) s = .next t ∧
      t.pc = s.pc + 3#16 + (if (s.load (zext z)).1.getLsbD n.val = false then BitVec.ofInt 16 off.toInt else 0x0000#16) ∧
      (s.isMemory (zext z) → t = { s with pc := t.pc })) ∧
    (∃ t, exec (bbs n z off) s = .next t ∧
      t.pc = s.pc + 3#16 + (if (s.load (zext z)).1.getLsbD n.val = true then BitVec.ofInt 16 off.toInt else 0x0000#16) ∧
      (s.isMemory (zext z) → t = { s with pc := t.pc }))

/-- BPL to BEQ and BRA: the condition of each, and the target; nothing but PC changes. R133 to R141; the target is
R130, which the spec marks as general knowledge (decision D21). -/
def Obligations.RelativeBranchesTestOneFlag : Prop :=
  ∀ (off : Byte) (s : State),
    exec (.bpl off) s =
      .next { s with pc := s.pc + 2#16 + (if s.n = false then BitVec.ofInt 16 off.toInt else 0x0000#16) } ∧
    exec (.bmi off) s =
      .next { s with pc := s.pc + 2#16 + (if s.n = true then BitVec.ofInt 16 off.toInt else 0x0000#16) } ∧
    exec (.bvc off) s =
      .next { s with pc := s.pc + 2#16 + (if s.v = false then BitVec.ofInt 16 off.toInt else 0x0000#16) } ∧
    exec (.bvs off) s =
      .next { s with pc := s.pc + 2#16 + (if s.v = true then BitVec.ofInt 16 off.toInt else 0x0000#16) } ∧
    exec (.bcc off) s =
      .next { s with pc := s.pc + 2#16 + (if s.c = false then BitVec.ofInt 16 off.toInt else 0x0000#16) } ∧
    exec (.bcs off) s =
      .next { s with pc := s.pc + 2#16 + (if s.c = true then BitVec.ofInt 16 off.toInt else 0x0000#16) } ∧
    exec (.bne off) s =
      .next { s with pc := s.pc + 2#16 + (if s.z = false then BitVec.ofInt 16 off.toInt else 0x0000#16) } ∧
    exec (.beq off) s =
      .next { s with pc := s.pc + 2#16 + (if s.z = true then BitVec.ofInt 16 off.toInt else 0x0000#16) } ∧
    exec (.bra off) s = .next { s with pc := s.pc + 2#16 + BitVec.ofInt 16 off.toInt }

/-- JMP in its three modes: to the operand, through the pointer, through the pointer plus X. R190, R191, R192; the
carry into the high byte of the pointer is decision D32 of the spec. -/
def Obligations.JumpsGoToTheAddressOrThroughThePointer : Prop :=
  ∀ (b : Word) (s : State),
    exec (.jmp (.abs b)) s = .next { s with pc := b } ∧
    (∃ t, exec (.jmp (.ind b)) s = .next t ∧
      (s.isMemory b → s.isMemory (b + 1) →
        t = { s with pc := BitVec.ofNat 16 ((s.peek b).toNat + 256 * (s.peek (b + 1)).toNat) })) ∧
    (∃ t, exec (.jmp (.indX b)) s = .next t ∧
      (∀ p : Word, p.toNat = (b.toNat + s.x.toNat) % 65536 → s.isMemory p → s.isMemory (p + 1) →
        t = { s with pc := BitVec.ofNat 16 ((s.peek p).toNat + 256 * (s.peek (p + 1)).toNat) }))

/-- JSR pushes the address of its last byte, high byte first, and jumps. R193; that the high byte is pushed first is
R64, marked general knowledge (decision D7); the operand is read before the pushes (log 13). -/
def Obligations.JsrPushesTheAddressOfItsLastByte : Prop :=
  ∀ (b : Word) (s : State), ∃ t, exec (.jsr b) s = .next t ∧ t.pc = b ∧ t.sp = s.sp - 2 ∧
    (s.mem.wf = true → s.isRam (stackAddr s.sp) → s.isRam (stackAddr (s.sp - 1)) →
      (t.peek (stackAddr s.sp)).toNat = (s.pc + 2).toNat / 256 ∧
      (t.peek (stackAddr (s.sp - 1))).toNat = (s.pc + 2).toNat % 256)

/-- RTS pulls an address and goes one past it, so it returns past the JSR that pushed it. R251 with R193; the byte
order on the stack is decision D7 of the spec. -/
def Obligations.RtsReturnsPastTheJsr : Prop :=
  (∀ s : State, ∃ t, exec .rts s = .next t ∧
    (s.isMemory (stackAddr (s.sp + 1)) → s.isMemory (stackAddr (s.sp + 2)) →
      t = { s with sp := s.sp + 2,
                   pc := BitVec.ofNat 16 ((s.peek (stackAddr (s.sp + 1))).toNat +
                     256 * (s.peek (stackAddr (s.sp + 2))).toNat + 1) })) ∧
  (∀ (b : Word) (s u t : State), s.mem.wf = true → s.isRam (stackAddr s.sp) → s.isRam (stackAddr (s.sp - 1)) →
    exec (.jsr b) s = .next u → t.sp = u.sp → t.regions = u.regions →
    t.peek (stackAddr s.sp) = u.peek (stackAddr s.sp) →
    t.peek (stackAddr (s.sp - 1)) = u.peek (stackAddr (s.sp - 1)) →
    exec .rts t = .next { t with pc := s.pc + 3, sp := s.sp })

/-- TAX, TAY, TXA, TYA, TSX copy a register and set N and Z from it; TXS copies X to SP and sets no flag. R280, R281,
R283, R284 whole, with the operation of R282 and R285; N and Z as R33 reads them. -/
def Obligations.TransfersCopyARegister : Prop :=
  ∀ s : State,
    (encode .tax = [0xAA#8] ∧ instrCycles .tax s = 2 ∧
      ∃ n z, exec .tax s = .next { s with x := s.a, n := n, z := z, pc := s.pc + 1 } ∧
        (n = true ↔ 128 ≤ s.a.toNat) ∧ (z = true ↔ s.a = 0x00#8)) ∧
    (encode .tay = [0xA8#8] ∧ instrCycles .tay s = 2 ∧
      ∃ n z, exec .tay s = .next { s with y := s.a, n := n, z := z, pc := s.pc + 1 } ∧
        (n = true ↔ 128 ≤ s.a.toNat) ∧ (z = true ↔ s.a = 0x00#8)) ∧
    (encode .txa = [0x8A#8] ∧ instrCycles .txa s = 2 ∧
      ∃ n z, exec .txa s = .next { s with a := s.x, n := n, z := z, pc := s.pc + 1 } ∧
        (n = true ↔ 128 ≤ s.x.toNat) ∧ (z = true ↔ s.x = 0x00#8)) ∧
    (encode .tya = [0x98#8] ∧ instrCycles .tya s = 2 ∧
      ∃ n z, exec .tya s = .next { s with a := s.y, n := n, z := z, pc := s.pc + 1 } ∧
        (n = true ↔ 128 ≤ s.y.toNat) ∧ (z = true ↔ s.y = 0x00#8)) ∧
    (encode .tsx = [0xBA#8] ∧ instrCycles .tsx s = 2 ∧
      ∃ n z, exec .tsx s = .next { s with x := s.sp, n := n, z := z, pc := s.pc + 1 } ∧
        (n = true ↔ 128 ≤ s.sp.toNat) ∧ (z = true ↔ s.sp = 0x00#8)) ∧
    (encode .txs = [0x9A#8] ∧ instrCycles .txs s = 2 ∧ exec .txs s = .next { s with sp := s.x, pc := s.pc + 1 })

/-- CLC, CLD, CLI, CLV, SEC, SED, SEI write their one flag, and nothing but it and PC changes. R152, R153, R155, R156
whole, with the operation of R154, R157, R158. -/
def Obligations.FlagInstructionsWriteOneFlag : Prop :=
  ∀ s : State,
    (encode .clc = [0x18#8] ∧ instrCycles .clc s = 2 ∧ exec .clc s = .next { s with c := false, pc := s.pc + 1 }) ∧
    (encode .cld = [0xD8#8] ∧ instrCycles .cld s = 2 ∧ exec .cld s = .next { s with d := false, pc := s.pc + 1 }) ∧
    (encode .cli = [0x58#8] ∧ instrCycles .cli s = 2 ∧ exec .cli s = .next { s with i := false, pc := s.pc + 1 }) ∧
    (encode .clv = [0xB8#8] ∧ instrCycles .clv s = 2 ∧ exec .clv s = .next { s with v := false, pc := s.pc + 1 }) ∧
    (encode .sec = [0x38#8] ∧ instrCycles .sec s = 2 ∧ exec .sec s = .next { s with c := true, pc := s.pc + 1 }) ∧
    (encode .sed = [0xF8#8] ∧ instrCycles .sed s = 2 ∧ exec .sed s = .next { s with d := true, pc := s.pc + 1 }) ∧
    (encode .sei = [0x78#8] ∧ instrCycles .sei s = 2 ∧ exec .sei s = .next { s with i := true, pc := s.pc + 1 })

/-- PHA, PHX, PHY, PHP store the register, or the SR image with bits 5 and 4 set, and decrement SP. R230 to R233; the
stack page and bits 5 and 4 are decisions D6 and D8 of the spec. -/
def Obligations.PushesStoreTheByteAndDecrementSp : Prop :=
  ∀ s : State,
    (∃ t, exec .pha s = .next t ∧ t.sp = s.sp - 1 ∧ t.pc = s.pc + 1 ∧
      (s.mem.wf = true → s.isRam (stackAddr s.sp) → t.peek (stackAddr s.sp) = s.a)) ∧
    (∃ t, exec .phx s = .next t ∧ t.sp = s.sp - 1 ∧ t.pc = s.pc + 1 ∧
      (s.mem.wf = true → s.isRam (stackAddr s.sp) → t.peek (stackAddr s.sp) = s.x)) ∧
    (∃ t, exec .phy s = .next t ∧ t.sp = s.sp - 1 ∧ t.pc = s.pc + 1 ∧
      (s.mem.wf = true → s.isRam (stackAddr s.sp) → t.peek (stackAddr s.sp) = s.y)) ∧
    (∃ t, exec .php s = .next t ∧ t.sp = s.sp - 1 ∧ t.pc = s.pc + 1 ∧
      (s.mem.wf = true → s.isRam (stackAddr s.sp) →
        (t.peek (stackAddr s.sp)).toNat =
          128 * b2n s.n + 64 * b2n s.v + 32 + 16 + 8 * b2n s.d + 4 * b2n s.i + 2 * b2n s.z + b2n s.c))

/-- PLA, PLX, PLY, PLP increment SP and load the register with N and Z, or the six flags, from the byte there. R234 to
R237; the stack page and the ignored bits 5 and 4 are decisions D6 and D8 of the spec. -/
def Obligations.PullsReadTheByteAboveSp : Prop :=
  ∀ s : State,
    (∃ t, exec .pla s = .next t ∧ t.sp = s.sp + 1 ∧ t.pc = s.pc + 1 ∧ t.showsNZ t.a ∧
      (s.isMemory (stackAddr (s.sp + 1)) → t.a = s.peek (stackAddr (s.sp + 1)))) ∧
    (∃ t, exec .plx s = .next t ∧ t.sp = s.sp + 1 ∧ t.pc = s.pc + 1 ∧ t.showsNZ t.x ∧
      (s.isMemory (stackAddr (s.sp + 1)) → t.x = s.peek (stackAddr (s.sp + 1)))) ∧
    (∃ t, exec .ply s = .next t ∧ t.sp = s.sp + 1 ∧ t.pc = s.pc + 1 ∧ t.showsNZ t.y ∧
      (s.isMemory (stackAddr (s.sp + 1)) → t.y = s.peek (stackAddr (s.sp + 1)))) ∧
    (∃ t, exec .plp s = .next t ∧ t.sp = s.sp + 1 ∧ t.pc = s.pc + 1 ∧
      (s.isMemory (stackAddr (s.sp + 1)) → ∀ q : Byte, q = s.peek (stackAddr (s.sp + 1)) →
        t.n = q.getLsbD 7 ∧ t.v = q.getLsbD 6 ∧ t.d = q.getLsbD 3 ∧ t.i = q.getLsbD 2 ∧ t.z = q.getLsbD 1 ∧
        t.c = q.getLsbD 0))

/-- BRK pushes PC+2 and SR with bit 4 set, sets I, clears D, and goes through $FFFE. R151, R302, R306; push order,
vector and bit 5 are decisions D7, D8, D9 of the spec; the padding byte is log 16. -/
def Obligations.BrkTakesTheInterruptSequenceWithTheBreakBit : Prop :=
  ∀ s : State, ∃ t, exec .brk s = .next t ∧
    t.sp = s.sp - 3 ∧ t.i = true ∧ t.d = false ∧ t.run = .running ∧
    t.a = s.a ∧ t.x = s.x ∧ t.y = s.y ∧ t.n = s.n ∧ t.v = s.v ∧ t.z = s.z ∧ t.c = s.c ∧
    (s.mem.wf = true → s.isRam (stackAddr s.sp) → s.isRam (stackAddr (s.sp - 1)) → s.isRam (stackAddr (s.sp - 2)) →
      (t.peek (stackAddr s.sp)).toNat = (s.pc + 2).toNat / 256 ∧
      (t.peek (stackAddr (s.sp - 1))).toNat = (s.pc + 2).toNat % 256 ∧
      t.peek (stackAddr (s.sp - 2)) = s.srImage true) ∧
    (s.isMemory 0xFFFE#16 → s.isMemory 0xFFFF#16 →
      t.pc.toNat = (s.peek 0xFFFE#16).toNat + 256 * (s.peek 0xFFFF#16).toNat)

/-- RTI pulls SR, then the address low byte first, and goes exactly there. R250; the pull order is decision D7 of the
spec. -/
def Obligations.RtiPullsTheFlagsAndThenTheAddress : Prop :=
  ∀ s : State, ∃ t, exec .rti s = .next t ∧ t.sp = s.sp + 3 ∧
    (s.isMemory (stackAddr (s.sp + 1)) → s.isMemory (stackAddr (s.sp + 2)) → s.isMemory (stackAddr (s.sp + 3)) →
      ∀ q : Byte, q = s.peek (stackAddr (s.sp + 1)) →
      t = { s with sp := s.sp + 3, n := q.getLsbD 7, v := q.getLsbD 6, d := q.getLsbD 3, i := q.getLsbD 2,
                   z := q.getLsbD 1, c := q.getLsbD 0,
                   pc := BitVec.ofNat 16 ((s.peek (stackAddr (s.sp + 2))).toNat +
                     256 * (s.peek (stackAddr (s.sp + 3))).toNat) })

/-- RTI is the inverse of the interrupt sequence if the handler leaves SP and the three bytes as it found them. R311
with R306. -/
def Obligations.RtiUndoesTheInterruptSequence : Prop :=
  ∀ (vector : Word) (brk : Bool) (s t : State), s.mem.wf = true →
    s.isRam (stackAddr s.sp) → s.isRam (stackAddr (s.sp - 1)) → s.isRam (stackAddr (s.sp - 2)) →
    t.sp = (s.interrupt vector brk).sp → t.regions = s.regions →
    t.peek (stackAddr s.sp) = (s.interrupt vector brk).peek (stackAddr s.sp) →
    t.peek (stackAddr (s.sp - 1)) = (s.interrupt vector brk).peek (stackAddr (s.sp - 1)) →
    t.peek (stackAddr (s.sp - 2)) = (s.interrupt vector brk).peek (stackAddr (s.sp - 2)) →
    exec .rti t = .next { t with pc := s.pc, sp := s.sp, n := s.n, v := s.v, d := s.d, i := s.i, z := s.z, c := s.c }

/-- WAI enters Waiting and STP enters Stopped, with PC past the instruction and nothing else changed. Operation of
R289 and R270. -/
def Obligations.WaiAndStpLeaveTheRunningState : Prop :=
  ∀ s : State,
    exec .wai s = .next { s with pc := s.pc + 1, run := .waiting } ∧
    exec .stp s = .next { s with pc := s.pc + 1, run := .stopped }

/-- NOP and the 44 invalid opcodes change nothing but PC, which moves past their bytes. R215, and the operation of
R216, R217 and R218; that the longer ones make no access but that of their own bytes is decision D15 of the spec (log
11). -/
def Obligations.NopsOnlyMovePastTheirBytes : Prop :=
  ∀ s : State,
    (encode .nop = [0xEA#8] ∧ instrCycles .nop s = 2 ∧ exec .nop s = .next { s with pc := s.pc + 1 }) ∧
    (∀ op : Byte, exec (.nop1 op) s = .next { s with pc := s.pc + 1 }) ∧
    (∀ op b1 : Byte, exec (.nop2 op b1) s = .next { s with pc := s.pc + 2 }) ∧
    (∀ op b1 b2 : Byte, exec (.nop3 op b1 b2) s = .next { s with pc := s.pc + 3 })

/-- An instruction leaves A, X, Y and SP as they were unless the list of R42 says it writes them. R42, the written
half: "a register not listed for an instruction is untouched by it". -/
def Obligations.RegistersNotListedAreUntouched : Prop :=
  ∀ (i : Instr) (s t : State), exec i s = .next t →
    (.a ∉ footprint i → t.a = s.a) ∧ (.x ∉ footprint i → t.x = s.x) ∧ (.y ∉ footprint i → t.y = s.y) ∧
    (.sp ∉ footprint i → t.sp = s.sp)

/-- An instruction leaves each of N, V, D, I, Z, C as it was unless the rule of that flag lists it. R25, R26, R29 to
R32. -/
def Obligations.FlagsNotListedAreUntouched : Prop :=
  ∀ (i : Instr) (s t : State), exec i s = .next t →
    (.n ∉ footprint i → t.n = s.n) ∧ (.v ∉ footprint i → t.v = s.v) ∧ (.d ∉ footprint i → t.d = s.d) ∧
    (.i ∉ footprint i → t.i = s.i) ∧ (.z ∉ footprint i → t.z = s.z) ∧ (.c ∉ footprint i → t.c = s.c)

/-- An instruction leaves every byte of memory as it was but those at the addresses it stores to. R104: one write for
a store or read-modify-write instruction, the pushes of R61 for the stack instructions, and no other. -/
def Obligations.MemoryOutsideTheStoredBytesIsUntouched : Prop :=
  ∀ (i : Instr) (s t : State), exec i s = .next t → ∀ e : Word, e ∉ storesTo i s → t.peek e = s.peek e

/-- `exec` leaves the memory map, inputs and NMI latch alone, and the cycle counter to the step; only WAI, STP, BRK
change the run state. R37, R38, R58, R59; BRK sets Running, as R306 writes it. The fields `regions`, `inputs`, `ioLog`
and `draws` are the form the model chose for the parameters of R5 (logs 5, 4, 6, 22). The clause on the cycle counter
is the choice of the model as well (log 17): R354 has every executed instruction advance the counter, and here `exec`
leaves it while the step adds the count through `tickOutcome`. -/
def Obligations.InstructionsLeaveTheRestOfTheMachineAlone : Prop :=
  ∀ (i : Instr) (s t : State), exec i s = .next t →
    (t.regions = s.regions ∧ t.inputs = s.inputs ∧ t.nmiPending = s.nmiPending ∧ t.cycles = s.cycles) ∧
    (i ≠ .wai → i ≠ .stp → i ≠ .brk → t.run = s.run) ∧
    ((∀ b : Word, s.isMemory b) → t.ioLog = s.ioLog ∧ t.draws = s.draws)

/-- What an instruction does depends neither on the inputs nor on the NMI latch nor on the cycle counter. R304 and
R354: the inputs are looked at only at instruction boundaries, and the cycle counter is never read. That the inputs
are a queue in State is log 4, and that the counter is left to the step, so that it stands in the next state as it
was, is log 17: both the choice of the model. -/
def Obligations.InstructionsDoNotLookAtTheInputs : Prop :=
  ∀ (i : Instr) (s t : State) (ls : List Lines) (pending : Bool) (k : Nat), exec i s = .next t →
    exec i { s with inputs := ls, nmiPending := pending, cycles := k } =
      .next { t with inputs := ls, nmiPending := pending, cycles := k }

/-- When only execution can happen at the boundary, a step runs the instruction that the bytes at PC decode to. R308
(ExecuteOne), R80, R36, marked general knowledge by the spec (decisions D10, D11). That the boundary takes the head of
a queue of inputs is log 4, and the counter of R354 as it is kept here is log 17. -/
def Obligations.StepRunsTheDecodedInstruction : Prop :=
  ∀ (s : State) (i : Instr) (rest : List Byte), s.onlyExecutes →
    (∀ k : Nat, k < i.len → s.isMemory (s.pc + BitVec.ofNat 16 k)) →
    decode [s.peek s.pc, s.peek (s.pc + 1), s.peek (s.pc + 2)] = .ok (i, rest) →
    ∃ t, exec i s.sampled = .next t ∧ step s = .next { t with cycles := t.cycles + instrCycles i s.sampled }

/-- Reset from any run state: I = 1, D = 0, latch clear, Running, PC from $FFFC, memory unchanged, nothing pushed.
R341, R342, R309, wholly general knowledge by the mark of the spec (decision D12). What is the choice of the model:
the free values (log 9), the queue of inputs that the step moves on (log 4), the map that no step changes (log 5), the
history of IO accesses (log 6). -/
def Obligations.ResetSequenceLoadsPcFromItsVector : Prop :=
  ∀ s : State, s.lines.resb = true → ∃ t, step s = .next t ∧
    t.i = true ∧ t.d = false ∧ t.nmiPending = false ∧ t.run = .running ∧ t.mem = s.mem ∧ t.regions = s.regions ∧
    t.inputs = s.inputs.tail ∧
    (s.isMemory 0xFFFC#16 → s.isMemory 0xFFFD#16 →
      t.pc.toNat = (s.peek 0xFFFC#16).toNat + 256 * (s.peek 0xFFFD#16).toNat ∧ t.ioLog = s.ioLog)

/-- A pending NMI, or an edge now, takes the sequence through $FFFA whatever I and the IRQ line are. R307, R306, R309,
marked general knowledge by the spec (decisions D7 to D11, D33). -/
def Obligations.NmiTakesPrecedenceOverIrqAndIsNotMasked : Prop :=
  ∀ s : State, s.lines.resb = false → s.run ≠ .stopped → (s.nmiPending = true ∨ s.lines.nmiEdge = true) →
    ∃ t, step s = .next t ∧
    t.sp = s.sp - 3 ∧ t.i = true ∧ t.d = false ∧ t.run = .running ∧ t.nmiPending = false ∧
    t.a = s.a ∧ t.x = s.x ∧ t.y = s.y ∧ t.n = s.n ∧ t.v = s.v ∧ t.z = s.z ∧ t.c = s.c ∧
    (s.mem.wf = true → s.isRam (stackAddr s.sp) → s.isRam (stackAddr (s.sp - 1)) → s.isRam (stackAddr (s.sp - 2)) →
      (t.peek (stackAddr s.sp)).toNat = s.pc.toNat / 256 ∧
      (t.peek (stackAddr (s.sp - 1))).toNat = s.pc.toNat % 256 ∧
      t.peek (stackAddr (s.sp - 2)) = s.srImage false) ∧
    (∀ e : Word, e ≠ stackAddr s.sp → e ≠ stackAddr (s.sp - 1) → e ≠ stackAddr (s.sp - 2) → t.peek e = s.peek e) ∧
    (s.isMemory 0xFFFA#16 → s.isMemory 0xFFFB#16 →
      t.pc.toNat = (s.peek 0xFFFA#16).toNat + 256 * (s.peek 0xFFFB#16).toNat)

/-- A low IRQ line with I = 0 takes the sequence through $FFFE with bit 4 of the pushed flags clear. R305, R306, R309,
marked general knowledge by the spec (decisions D7 to D11). -/
def Obligations.IrqIsTakenWhenUnmasked : Prop :=
  ∀ s : State, s.lines.resb = false → s.run ≠ .stopped → s.nmiPending = false → s.lines.nmiEdge = false →
    s.lines.irqLow = true → s.i = false →
    ∃ t, step s = .next t ∧
    t.sp = s.sp - 3 ∧ t.i = true ∧ t.d = false ∧ t.run = .running ∧ t.nmiPending = false ∧
    t.a = s.a ∧ t.x = s.x ∧ t.y = s.y ∧ t.n = s.n ∧ t.v = s.v ∧ t.z = s.z ∧ t.c = s.c ∧
    (s.mem.wf = true → s.isRam (stackAddr s.sp) → s.isRam (stackAddr (s.sp - 1)) → s.isRam (stackAddr (s.sp - 2)) →
      (t.peek (stackAddr s.sp)).toNat = s.pc.toNat / 256 ∧
      (t.peek (stackAddr (s.sp - 1))).toNat = s.pc.toNat % 256 ∧
      t.peek (stackAddr (s.sp - 2)) = s.srImage false) ∧
    (∀ e : Word, e ≠ stackAddr s.sp → e ≠ stackAddr (s.sp - 1) → e ≠ stackAddr (s.sp - 2) → t.peek e = s.peek e) ∧
    (s.isMemory 0xFFFE#16 → s.isMemory 0xFFFF#16 →
      t.pc.toNat = (s.peek 0xFFFE#16).toNat + 256 * (s.peek 0xFFFF#16).toNat)

/-- While I = 1 and the machine is not Waiting, the level of the IRQ line at a boundary changes nothing. R305: with I
= 1 the line is ignored, except that it ends a WAI. At the boundary right after SEI or PLP the I that counts is the
new one: R310, decision D11 of the spec, which its U6 doubts (log 12). The queue of inputs is log 4. -/
def Obligations.MaskedIrqLineIsIgnoredWhileRunning : Prop :=
  ∀ (s : State) (l : Lines) (rest : List Lines), s.i = true → s.run ≠ .waiting →
    step { s with inputs := { l with irqLow := true } :: rest } =
      step { s with inputs := { l with irqLow := false } :: rest }

/-- Without reset a Stopped machine stays so; without NMI a Waiting one stays so while the IRQ line is high, and a low
line with I = 1 only ends the wait. R313, R314, R308, marked general knowledge by the spec (decisions D13, D14); that
waiting is a step which changes nothing but the input queue is logs 15 and 4. -/
def Obligations.WaitingAndStoppedKeepEverything : Prop :=
  ∀ s : State, s.lines.resb = false →
    (s.run = .stopped →
      step s = .next { s with nmiPending := s.nmiPending || s.lines.nmiEdge, inputs := s.inputs.tail }) ∧
    (s.run = .waiting → s.nmiPending = false → s.lines.nmiEdge = false → s.lines.irqLow = false →
      step s = .next { s with inputs := s.inputs.tail }) ∧
    (s.run = .waiting → s.nmiPending = false → s.lines.nmiEdge = false → s.lines.irqLow = true → s.i = true →
      step s = .next { s with run := .running, inputs := s.inputs.tail })

/-- Every step from a state whose memory is in canonical form answers a state whose memory is. R50 gives the 65536
bytes; the canonical form is the model's own representation of them (log 1). -/
def Obligations.StepKeepsMemoryCanonical : Prop :=
  ∀ s t : State, s.mem.wf = true → step s = .next t → t.mem.wf = true

/-- The state after reset has I = 1, D = 0, Running, no NMI pending, PC from $FFFC, and canonical memory. R41, wholly
general knowledge by the mark of the spec (decision D12). The word at $FFFC is that of a memory with nothing listed
(log 3), and the canonical form is the representation the model chose (log 1). -/
def Obligations.ResetStateIsAsTheSpecSays : Prop :=
  State.reset.i = true ∧ State.reset.d = false ∧ State.reset.run = .running ∧ State.reset.nmiPending = false ∧
    State.reset.pc.toNat = (State.reset.peek 0xFFFC#16).toNat + 256 * (State.reset.peek 0xFFFD#16).toNat ∧
    State.reset.mem.wf = true

/-- No step changes the memory map or any byte that does not stand in RAM. R58: a write to ROM has no effect on later
reads. That the map is fixed is the reading of `Platform.region` as a parameter (log 5). -/
def Obligations.StepKeepsTheMapAndEveryByteOutsideRam : Prop :=
  ∀ s t : State, step s = .next t →
    t.regions = s.regions ∧ ∀ b : Word, ¬ s.isRam b → t.peek b = s.peek b

/-- A step never faults, and is refused only when an instruction byte at PC lies in IO or Unmapped space. R301 and
R58; LEN is the grid of R84. That a fetch from IO or Unmapped is refused, the first such byte deciding how, is log 8.
-/
def Obligations.OnlyTheFetchIsRefused : Prop :=
  ∀ s : State, (∀ f, step s ≠ .fault f) ∧
    (∀ r, step s = .refused r → s.run = .running ∧ ∃ k : Nat, k < lengthCell (s.peek s.pc) ∧
      (∀ j : Nat, j < k → s.isMemory (s.pc + BitVec.ofNat 16 j)) ∧
      ((r = .fetchFromIo ∧ s.region (s.pc + BitVec.ofNat 16 k) = .io) ∨
        (r = .fetchFromUnmapped ∧ s.region (s.pc + BitVec.ofNat 16 k) = .unmapped)))

/-- From any state whose whole address space is RAM and ROM, a run of any length is safe. R301: the step function is
total on every state in which the instruction bytes can be read. -/
def Obligations.RunsInMemoryNeverStop : Prop :=
  ∀ (k : Nat) (s : State), (∀ b : Word, s.isMemory b) → SafeRun k s

/-- A step with the cycle counter set ahead answers the same with the counter ahead by as much. R354: the counter is
never read by any instruction and can be erased without changing any other state. What each step adds to it is log 17.
-/
def Obligations.CycleCounterIsNeverRead : Prop :=
  ∀ (s : State) (k : Nat), step (s.tick k) = tickOutcome k (step s)
end

