-- ==== Sys2Proof/Laws/Memory.lean ====
section
/-! SUPPORT. Memory as data: a byte read after a write, and the canonical form, which every write keeps. -/

namespace Sys2Proof.Machine

@[simp] theorem Memory.read_nil (a : Nat) : Memory.read [] a = Config.unlistedByte := rfl

theorem Memory.read_cons (b : Nat) (w : Byte) (rest : Memory) (a : Nat) :
    Memory.read ((b, w) :: rest) a = if a = b then w else Memory.read rest a := rfl

/-- A byte below every listed address reads as an unlisted byte. -/
theorem Memory.read_below {m : Memory} : ∀ {start a : Nat}, Memory.wfFrom start m = true → a < start →
    Memory.read m a = Config.unlistedByte := by
  induction m with
  | nil => intros; rfl
  | cons cell rest ih =>
    obtain ⟨b, w⟩ := cell
    intro start a h ha
    simp only [Memory.wfFrom, Bool.and_eq_true, decide_eq_true_eq] at h
    rw [Memory.read_cons, if_neg (by omega)]
    exact ih h.2 (by omega)

/-- A cell put in front is what the address reads as, if the rest lies above it. -/
theorem Memory.read_put {m : Memory} {a : Nat} (w : Byte) (h : Memory.read m a = Config.unlistedByte) (e : Nat) :
    Memory.read (Memory.put a w m) e = if e = a then w else Memory.read m e := by
  unfold Memory.put
  split
  · next hw =>
    split
    · next he => rw [he, h, hw]
    · rfl
  · rfl

/-- A write leaves every other address alone, in a canonical memory or not. -/
@[simp] theorem Memory.read_write_ne {a e : Nat} (w : Byte) (h : e ≠ a) :
    ∀ m : Memory, Memory.read (m.write a w) e = Memory.read m e := by
  intro m
  induction m with
  | nil => simp [Memory.write, Memory.put]; split <;> simp [Memory.read_cons, h]
  | cons cell rest ih =>
    obtain ⟨b, u⟩ := cell
    simp only [Memory.write]
    split
    · simp only [Memory.put]; split
      · rfl
      · rw [Memory.read_cons, if_neg h]
    · split
      · next hab =>
        simp only [Memory.put]; split
        · rw [Memory.read_cons, if_neg (by omega)]
        · rw [Memory.read_cons, if_neg h, Memory.read_cons, if_neg (by omega)]
      · rw [Memory.read_cons, Memory.read_cons, ih]

/-- A canonical memory reads the written byte at the written address. -/
theorem Memory.read_write_same_from (a : Nat) (w : Byte) (m : Memory) : ∀ {start : Nat}, Memory.wfFrom start m = true →
    Memory.read (m.write a w) a = w := by
  induction m with
  | nil => intro start _; rw [Memory.write, Memory.read_put w rfl, if_pos rfl]
  | cons cell rest ih =>
    obtain ⟨b, u⟩ := cell
    intro start h
    have hm := h
    simp only [Memory.wfFrom, Bool.and_eq_true, decide_eq_true_eq] at h
    simp only [Memory.write]
    split
    · next hab =>
      rw [Memory.read_put w ?_, if_pos rfl]
      rw [Memory.read_cons, if_neg (by omega)]
      exact Memory.read_below h.2 (by omega)
    · split
      · next hab => subst hab; rw [Memory.read_put w (Memory.read_below h.2 (by omega)), if_pos rfl]
      · rw [Memory.read_cons, if_neg (by assumption)]; exact ih h.2

/-- Read after write, at the same address: the byte written. -/
theorem Memory.read_write_same {m : Memory} (h : m.wf = true) (a : Nat) (w : Byte) :
    Memory.read (m.write a w) a = w :=
  Memory.read_write_same_from a w m h

/-- Read after write, at any address. -/
theorem Memory.read_write {m : Memory} (h : m.wf = true) (a : Nat) (w : Byte) (e : Nat) :
    Memory.read (m.write a w) e = if e = a then w else Memory.read m e := by
  split
  · next he => rw [he, Memory.read_write_same h]
  · next he => exact Memory.read_write_ne w he m

theorem Memory.wfFrom_mono {m : Memory} {lo hi : Nat} (h : Memory.wfFrom hi m = true) (hl : lo ≤ hi) :
    Memory.wfFrom lo m = true := by
  cases m with
  | nil => rfl
  | cons cell rest =>
    obtain ⟨b, u⟩ := cell
    simp only [Memory.wfFrom, Bool.and_eq_true, decide_eq_true_eq] at h ⊢
    exact ⟨⟨⟨by omega, h.1.1.2⟩, h.1.2⟩, h.2⟩

theorem Memory.wfFrom_put {m : Memory} {a start : Nat} (w : Byte) (h : Memory.wfFrom (a + 1) m = true) (hs : start ≤ a)
    (ha : a < 65536) : Memory.wfFrom start (Memory.put a w m) = true := by
  unfold Memory.put
  split
  · exact Memory.wfFrom_mono h (by omega)
  · next hw => simpa [Memory.wfFrom, hs, ha, hw] using h

theorem Memory.wfFrom_write {a : Nat} (w : Byte) (ha : a < 65536) (m : Memory) : ∀ {start : Nat}, start ≤ a →
    Memory.wfFrom start m = true → Memory.wfFrom start (m.write a w) = true := by
  induction m with
  | nil => intro start hs _; exact Memory.wfFrom_put w rfl hs ha
  | cons cell rest ih =>
    obtain ⟨b, u⟩ := cell
    intro start hs h
    have h' := h
    simp only [Memory.wfFrom, Bool.and_eq_true, decide_eq_true_eq] at h
    simp only [Memory.write]
    split
    · next hab =>
      refine Memory.wfFrom_put w ?_ hs ha
      simp only [Memory.wfFrom, Bool.and_eq_true, decide_eq_true_eq]
      exact ⟨⟨⟨by omega, h.1.1.2⟩, h.1.2⟩, h.2⟩
    · split
      · next hab => subst hab; exact Memory.wfFrom_put w h.2 hs ha
      · simp only [Memory.wfFrom, Bool.and_eq_true, decide_eq_true_eq]
        exact ⟨h.1, ih (by omega) h.2⟩

/-- A write inside the address space keeps the canonical form. -/
theorem Memory.write_wf {m : Memory} (h : m.wf = true) {a : Nat} (ha : a < 65536) (w : Byte) :
    (m.write a w).wf = true :=
  Memory.wfFrom_write w ha m (Nat.zero_le a) h

/-- The memory of the machine right after reset is canonical. -/
theorem State.reset_wf : State.reset.mem.wf = true := rfl

end Sys2Proof.Machine
end

