-- ==== Sys2Proof/Laws/State.lean ====
section
/-! SUPPORT. What each plain update of the state leaves in each field: one lemma per field per update. -/

namespace Sys2Proof.Machine

/-! `State.setNZ` -/

@[simp] theorem State.setNZ_a (q : Byte) (s : State) : (s.setNZ q).a = s.a := rfl
@[simp] theorem State.setNZ_x (q : Byte) (s : State) : (s.setNZ q).x = s.x := rfl
@[simp] theorem State.setNZ_y (q : Byte) (s : State) : (s.setNZ q).y = s.y := rfl
@[simp] theorem State.setNZ_sp (q : Byte) (s : State) : (s.setNZ q).sp = s.sp := rfl
@[simp] theorem State.setNZ_pc (q : Byte) (s : State) : (s.setNZ q).pc = s.pc := rfl
@[simp] theorem State.setNZ_n (q : Byte) (s : State) : (s.setNZ q).n = q.getLsbD 7 := rfl
@[simp] theorem State.setNZ_v (q : Byte) (s : State) : (s.setNZ q).v = s.v := rfl
@[simp] theorem State.setNZ_d (q : Byte) (s : State) : (s.setNZ q).d = s.d := rfl
@[simp] theorem State.setNZ_i (q : Byte) (s : State) : (s.setNZ q).i = s.i := rfl
@[simp] theorem State.setNZ_z (q : Byte) (s : State) : (s.setNZ q).z = (q == 0) := rfl
@[simp] theorem State.setNZ_c (q : Byte) (s : State) : (s.setNZ q).c = s.c := rfl
@[simp] theorem State.setNZ_run (q : Byte) (s : State) : (s.setNZ q).run = s.run := rfl
@[simp] theorem State.setNZ_nmiPending (q : Byte) (s : State) : (s.setNZ q).nmiPending = s.nmiPending := rfl
@[simp] theorem State.setNZ_mem (q : Byte) (s : State) : (s.setNZ q).mem = s.mem := rfl
@[simp] theorem State.setNZ_regions (q : Byte) (s : State) : (s.setNZ q).regions = s.regions := rfl
@[simp] theorem State.setNZ_inputs (q : Byte) (s : State) : (s.setNZ q).inputs = s.inputs := rfl
@[simp] theorem State.setNZ_ioLog (q : Byte) (s : State) : (s.setNZ q).ioLog = s.ioLog := rfl
@[simp] theorem State.setNZ_draws (q : Byte) (s : State) : (s.setNZ q).draws = s.draws := rfl
@[simp] theorem State.setNZ_cycles (q : Byte) (s : State) : (s.setNZ q).cycles = s.cycles := rfl

/-! `State.srLoad` -/

@[simp] theorem State.srLoad_a (q : Byte) (s : State) : (s.srLoad q).a = s.a := rfl
@[simp] theorem State.srLoad_x (q : Byte) (s : State) : (s.srLoad q).x = s.x := rfl
@[simp] theorem State.srLoad_y (q : Byte) (s : State) : (s.srLoad q).y = s.y := rfl
@[simp] theorem State.srLoad_sp (q : Byte) (s : State) : (s.srLoad q).sp = s.sp := rfl
@[simp] theorem State.srLoad_pc (q : Byte) (s : State) : (s.srLoad q).pc = s.pc := rfl
@[simp] theorem State.srLoad_n (q : Byte) (s : State) : (s.srLoad q).n = q.getLsbD 7 := rfl
@[simp] theorem State.srLoad_v (q : Byte) (s : State) : (s.srLoad q).v = q.getLsbD 6 := rfl
@[simp] theorem State.srLoad_d (q : Byte) (s : State) : (s.srLoad q).d = q.getLsbD 3 := rfl
@[simp] theorem State.srLoad_i (q : Byte) (s : State) : (s.srLoad q).i = q.getLsbD 2 := rfl
@[simp] theorem State.srLoad_z (q : Byte) (s : State) : (s.srLoad q).z = q.getLsbD 1 := rfl
@[simp] theorem State.srLoad_c (q : Byte) (s : State) : (s.srLoad q).c = q.getLsbD 0 := rfl
@[simp] theorem State.srLoad_run (q : Byte) (s : State) : (s.srLoad q).run = s.run := rfl
@[simp] theorem State.srLoad_nmiPending (q : Byte) (s : State) : (s.srLoad q).nmiPending = s.nmiPending := rfl
@[simp] theorem State.srLoad_mem (q : Byte) (s : State) : (s.srLoad q).mem = s.mem := rfl
@[simp] theorem State.srLoad_regions (q : Byte) (s : State) : (s.srLoad q).regions = s.regions := rfl
@[simp] theorem State.srLoad_inputs (q : Byte) (s : State) : (s.srLoad q).inputs = s.inputs := rfl
@[simp] theorem State.srLoad_ioLog (q : Byte) (s : State) : (s.srLoad q).ioLog = s.ioLog := rfl
@[simp] theorem State.srLoad_draws (q : Byte) (s : State) : (s.srLoad q).draws = s.draws := rfl
@[simp] theorem State.srLoad_cycles (q : Byte) (s : State) : (s.srLoad q).cycles = s.cycles := rfl

/-! `State.setAlu` -/

@[simp] theorem State.setAlu_a (q : AluResult) (s : State) : (s.setAlu q).a = q.r := rfl
@[simp] theorem State.setAlu_x (q : AluResult) (s : State) : (s.setAlu q).x = s.x := rfl
@[simp] theorem State.setAlu_y (q : AluResult) (s : State) : (s.setAlu q).y = s.y := rfl
@[simp] theorem State.setAlu_sp (q : AluResult) (s : State) : (s.setAlu q).sp = s.sp := rfl
@[simp] theorem State.setAlu_pc (q : AluResult) (s : State) : (s.setAlu q).pc = s.pc := rfl
@[simp] theorem State.setAlu_n (q : AluResult) (s : State) : (s.setAlu q).n = q.r.getLsbD 7 := rfl
@[simp] theorem State.setAlu_v (q : AluResult) (s : State) : (s.setAlu q).v = q.v := rfl
@[simp] theorem State.setAlu_d (q : AluResult) (s : State) : (s.setAlu q).d = s.d := rfl
@[simp] theorem State.setAlu_i (q : AluResult) (s : State) : (s.setAlu q).i = s.i := rfl
@[simp] theorem State.setAlu_z (q : AluResult) (s : State) : (s.setAlu q).z = (q.r == 0) := rfl
@[simp] theorem State.setAlu_c (q : AluResult) (s : State) : (s.setAlu q).c = q.c := rfl
@[simp] theorem State.setAlu_run (q : AluResult) (s : State) : (s.setAlu q).run = s.run := rfl
@[simp] theorem State.setAlu_nmiPending (q : AluResult) (s : State) : (s.setAlu q).nmiPending = s.nmiPending := rfl
@[simp] theorem State.setAlu_mem (q : AluResult) (s : State) : (s.setAlu q).mem = s.mem := rfl
@[simp] theorem State.setAlu_regions (q : AluResult) (s : State) : (s.setAlu q).regions = s.regions := rfl
@[simp] theorem State.setAlu_inputs (q : AluResult) (s : State) : (s.setAlu q).inputs = s.inputs := rfl
@[simp] theorem State.setAlu_ioLog (q : AluResult) (s : State) : (s.setAlu q).ioLog = s.ioLog := rfl
@[simp] theorem State.setAlu_draws (q : AluResult) (s : State) : (s.setAlu q).draws = s.draws := rfl
@[simp] theorem State.setAlu_cycles (q : AluResult) (s : State) : (s.setAlu q).cycles = s.cycles := rfl

/-! `State.setCompare` -/

@[simp] theorem State.setCompare_a (r m : Byte) (s : State) : (s.setCompare r m).a = s.a := rfl
@[simp] theorem State.setCompare_x (r m : Byte) (s : State) : (s.setCompare r m).x = s.x := rfl
@[simp] theorem State.setCompare_y (r m : Byte) (s : State) : (s.setCompare r m).y = s.y := rfl
@[simp] theorem State.setCompare_sp (r m : Byte) (s : State) : (s.setCompare r m).sp = s.sp := rfl
@[simp] theorem State.setCompare_pc (r m : Byte) (s : State) : (s.setCompare r m).pc = s.pc := rfl
@[simp] theorem State.setCompare_n (r m : Byte) (s : State) : (s.setCompare r m).n = (r - m).getLsbD 7 := rfl
@[simp] theorem State.setCompare_v (r m : Byte) (s : State) : (s.setCompare r m).v = s.v := rfl
@[simp] theorem State.setCompare_d (r m : Byte) (s : State) : (s.setCompare r m).d = s.d := rfl
@[simp] theorem State.setCompare_i (r m : Byte) (s : State) : (s.setCompare r m).i = s.i := rfl
@[simp] theorem State.setCompare_z (r m : Byte) (s : State) : (s.setCompare r m).z = (r == m) := rfl
@[simp] theorem State.setCompare_c (r m : Byte) (s : State) : (s.setCompare r m).c = decide (m.toNat ≤ r.toNat) := rfl
@[simp] theorem State.setCompare_run (r m : Byte) (s : State) : (s.setCompare r m).run = s.run := rfl
@[simp] theorem State.setCompare_nmiPending (r m : Byte) (s : State) : (s.setCompare r m).nmiPending = s.nmiPending := rfl
@[simp] theorem State.setCompare_mem (r m : Byte) (s : State) : (s.setCompare r m).mem = s.mem := rfl
@[simp] theorem State.setCompare_regions (r m : Byte) (s : State) : (s.setCompare r m).regions = s.regions := rfl
@[simp] theorem State.setCompare_inputs (r m : Byte) (s : State) : (s.setCompare r m).inputs = s.inputs := rfl
@[simp] theorem State.setCompare_ioLog (r m : Byte) (s : State) : (s.setCompare r m).ioLog = s.ioLog := rfl
@[simp] theorem State.setCompare_draws (r m : Byte) (s : State) : (s.setCompare r m).draws = s.draws := rfl
@[simp] theorem State.setCompare_cycles (r m : Byte) (s : State) : (s.setCompare r m).cycles = s.cycles := rfl

/-! `State.setTest` -/

@[simp] theorem State.setTest_a (m : Byte) (s : State) : (s.setTest m).a = s.a := rfl
@[simp] theorem State.setTest_x (m : Byte) (s : State) : (s.setTest m).x = s.x := rfl
@[simp] theorem State.setTest_y (m : Byte) (s : State) : (s.setTest m).y = s.y := rfl
@[simp] theorem State.setTest_sp (m : Byte) (s : State) : (s.setTest m).sp = s.sp := rfl
@[simp] theorem State.setTest_pc (m : Byte) (s : State) : (s.setTest m).pc = s.pc := rfl
@[simp] theorem State.setTest_n (m : Byte) (s : State) : (s.setTest m).n = s.n := rfl
@[simp] theorem State.setTest_v (m : Byte) (s : State) : (s.setTest m).v = s.v := rfl
@[simp] theorem State.setTest_d (m : Byte) (s : State) : (s.setTest m).d = s.d := rfl
@[simp] theorem State.setTest_i (m : Byte) (s : State) : (s.setTest m).i = s.i := rfl
@[simp] theorem State.setTest_z (m : Byte) (s : State) : (s.setTest m).z = (s.a &&& m == 0) := rfl
@[simp] theorem State.setTest_c (m : Byte) (s : State) : (s.setTest m).c = s.c := rfl
@[simp] theorem State.setTest_run (m : Byte) (s : State) : (s.setTest m).run = s.run := rfl
@[simp] theorem State.setTest_nmiPending (m : Byte) (s : State) : (s.setTest m).nmiPending = s.nmiPending := rfl
@[simp] theorem State.setTest_mem (m : Byte) (s : State) : (s.setTest m).mem = s.mem := rfl
@[simp] theorem State.setTest_regions (m : Byte) (s : State) : (s.setTest m).regions = s.regions := rfl
@[simp] theorem State.setTest_inputs (m : Byte) (s : State) : (s.setTest m).inputs = s.inputs := rfl
@[simp] theorem State.setTest_ioLog (m : Byte) (s : State) : (s.setTest m).ioLog = s.ioLog := rfl
@[simp] theorem State.setTest_draws (m : Byte) (s : State) : (s.setTest m).draws = s.draws := rfl
@[simp] theorem State.setTest_cycles (m : Byte) (s : State) : (s.setTest m).cycles = s.cycles := rfl

/-! `State.jump` -/

@[simp] theorem State.jump_a (w : Word) (s : State) : (s.jump w).a = s.a := rfl
@[simp] theorem State.jump_x (w : Word) (s : State) : (s.jump w).x = s.x := rfl
@[simp] theorem State.jump_y (w : Word) (s : State) : (s.jump w).y = s.y := rfl
@[simp] theorem State.jump_sp (w : Word) (s : State) : (s.jump w).sp = s.sp := rfl
@[simp] theorem State.jump_pc (w : Word) (s : State) : (s.jump w).pc = w := rfl
@[simp] theorem State.jump_n (w : Word) (s : State) : (s.jump w).n = s.n := rfl
@[simp] theorem State.jump_v (w : Word) (s : State) : (s.jump w).v = s.v := rfl
@[simp] theorem State.jump_d (w : Word) (s : State) : (s.jump w).d = s.d := rfl
@[simp] theorem State.jump_i (w : Word) (s : State) : (s.jump w).i = s.i := rfl
@[simp] theorem State.jump_z (w : Word) (s : State) : (s.jump w).z = s.z := rfl
@[simp] theorem State.jump_c (w : Word) (s : State) : (s.jump w).c = s.c := rfl
@[simp] theorem State.jump_run (w : Word) (s : State) : (s.jump w).run = s.run := rfl
@[simp] theorem State.jump_nmiPending (w : Word) (s : State) : (s.jump w).nmiPending = s.nmiPending := rfl
@[simp] theorem State.jump_mem (w : Word) (s : State) : (s.jump w).mem = s.mem := rfl
@[simp] theorem State.jump_regions (w : Word) (s : State) : (s.jump w).regions = s.regions := rfl
@[simp] theorem State.jump_inputs (w : Word) (s : State) : (s.jump w).inputs = s.inputs := rfl
@[simp] theorem State.jump_ioLog (w : Word) (s : State) : (s.jump w).ioLog = s.ioLog := rfl
@[simp] theorem State.jump_draws (w : Word) (s : State) : (s.jump w).draws = s.draws := rfl
@[simp] theorem State.jump_cycles (w : Word) (s : State) : (s.jump w).cycles = s.cycles := rfl

/-! `State.advance` -/

@[simp] theorem State.advance_a (k : Nat) (s : State) : (s.advance k).a = s.a := rfl
@[simp] theorem State.advance_x (k : Nat) (s : State) : (s.advance k).x = s.x := rfl
@[simp] theorem State.advance_y (k : Nat) (s : State) : (s.advance k).y = s.y := rfl
@[simp] theorem State.advance_sp (k : Nat) (s : State) : (s.advance k).sp = s.sp := rfl
@[simp] theorem State.advance_pc (k : Nat) (s : State) : (s.advance k).pc = s.pc + BitVec.ofNat 16 k := rfl
@[simp] theorem State.advance_n (k : Nat) (s : State) : (s.advance k).n = s.n := rfl
@[simp] theorem State.advance_v (k : Nat) (s : State) : (s.advance k).v = s.v := rfl
@[simp] theorem State.advance_d (k : Nat) (s : State) : (s.advance k).d = s.d := rfl
@[simp] theorem State.advance_i (k : Nat) (s : State) : (s.advance k).i = s.i := rfl
@[simp] theorem State.advance_z (k : Nat) (s : State) : (s.advance k).z = s.z := rfl
@[simp] theorem State.advance_c (k : Nat) (s : State) : (s.advance k).c = s.c := rfl
@[simp] theorem State.advance_run (k : Nat) (s : State) : (s.advance k).run = s.run := rfl
@[simp] theorem State.advance_nmiPending (k : Nat) (s : State) : (s.advance k).nmiPending = s.nmiPending := rfl
@[simp] theorem State.advance_mem (k : Nat) (s : State) : (s.advance k).mem = s.mem := rfl
@[simp] theorem State.advance_regions (k : Nat) (s : State) : (s.advance k).regions = s.regions := rfl
@[simp] theorem State.advance_inputs (k : Nat) (s : State) : (s.advance k).inputs = s.inputs := rfl
@[simp] theorem State.advance_ioLog (k : Nat) (s : State) : (s.advance k).ioLog = s.ioLog := rfl
@[simp] theorem State.advance_draws (k : Nat) (s : State) : (s.advance k).draws = s.draws := rfl
@[simp] theorem State.advance_cycles (k : Nat) (s : State) : (s.advance k).cycles = s.cycles := rfl

/-! `State.setRun` -/

@[simp] theorem State.setRun_a (r : RunState) (s : State) : (s.setRun r).a = s.a := rfl
@[simp] theorem State.setRun_x (r : RunState) (s : State) : (s.setRun r).x = s.x := rfl
@[simp] theorem State.setRun_y (r : RunState) (s : State) : (s.setRun r).y = s.y := rfl
@[simp] theorem State.setRun_sp (r : RunState) (s : State) : (s.setRun r).sp = s.sp := rfl
@[simp] theorem State.setRun_pc (r : RunState) (s : State) : (s.setRun r).pc = s.pc := rfl
@[simp] theorem State.setRun_n (r : RunState) (s : State) : (s.setRun r).n = s.n := rfl
@[simp] theorem State.setRun_v (r : RunState) (s : State) : (s.setRun r).v = s.v := rfl
@[simp] theorem State.setRun_d (r : RunState) (s : State) : (s.setRun r).d = s.d := rfl
@[simp] theorem State.setRun_i (r : RunState) (s : State) : (s.setRun r).i = s.i := rfl
@[simp] theorem State.setRun_z (r : RunState) (s : State) : (s.setRun r).z = s.z := rfl
@[simp] theorem State.setRun_c (r : RunState) (s : State) : (s.setRun r).c = s.c := rfl
@[simp] theorem State.setRun_run (r : RunState) (s : State) : (s.setRun r).run = r := rfl
@[simp] theorem State.setRun_nmiPending (r : RunState) (s : State) : (s.setRun r).nmiPending = s.nmiPending := rfl
@[simp] theorem State.setRun_mem (r : RunState) (s : State) : (s.setRun r).mem = s.mem := rfl
@[simp] theorem State.setRun_regions (r : RunState) (s : State) : (s.setRun r).regions = s.regions := rfl
@[simp] theorem State.setRun_inputs (r : RunState) (s : State) : (s.setRun r).inputs = s.inputs := rfl
@[simp] theorem State.setRun_ioLog (r : RunState) (s : State) : (s.setRun r).ioLog = s.ioLog := rfl
@[simp] theorem State.setRun_draws (r : RunState) (s : State) : (s.setRun r).draws = s.draws := rfl
@[simp] theorem State.setRun_cycles (r : RunState) (s : State) : (s.setRun r).cycles = s.cycles := rfl

/-! `State.tick` -/

@[simp] theorem State.tick_a (k : Nat) (s : State) : (s.tick k).a = s.a := rfl
@[simp] theorem State.tick_x (k : Nat) (s : State) : (s.tick k).x = s.x := rfl
@[simp] theorem State.tick_y (k : Nat) (s : State) : (s.tick k).y = s.y := rfl
@[simp] theorem State.tick_sp (k : Nat) (s : State) : (s.tick k).sp = s.sp := rfl
@[simp] theorem State.tick_pc (k : Nat) (s : State) : (s.tick k).pc = s.pc := rfl
@[simp] theorem State.tick_n (k : Nat) (s : State) : (s.tick k).n = s.n := rfl
@[simp] theorem State.tick_v (k : Nat) (s : State) : (s.tick k).v = s.v := rfl
@[simp] theorem State.tick_d (k : Nat) (s : State) : (s.tick k).d = s.d := rfl
@[simp] theorem State.tick_i (k : Nat) (s : State) : (s.tick k).i = s.i := rfl
@[simp] theorem State.tick_z (k : Nat) (s : State) : (s.tick k).z = s.z := rfl
@[simp] theorem State.tick_c (k : Nat) (s : State) : (s.tick k).c = s.c := rfl
@[simp] theorem State.tick_run (k : Nat) (s : State) : (s.tick k).run = s.run := rfl
@[simp] theorem State.tick_nmiPending (k : Nat) (s : State) : (s.tick k).nmiPending = s.nmiPending := rfl
@[simp] theorem State.tick_mem (k : Nat) (s : State) : (s.tick k).mem = s.mem := rfl
@[simp] theorem State.tick_regions (k : Nat) (s : State) : (s.tick k).regions = s.regions := rfl
@[simp] theorem State.tick_inputs (k : Nat) (s : State) : (s.tick k).inputs = s.inputs := rfl
@[simp] theorem State.tick_ioLog (k : Nat) (s : State) : (s.tick k).ioLog = s.ioLog := rfl
@[simp] theorem State.tick_draws (k : Nat) (s : State) : (s.tick k).draws = s.draws := rfl
@[simp] theorem State.tick_cycles (k : Nat) (s : State) : (s.tick k).cycles = s.cycles + k := rfl

/-! `State.setDraw` -/

@[simp] theorem State.setDraw_a (w : ResetDraw) (s : State) : (s.setDraw w).a = w.a := rfl
@[simp] theorem State.setDraw_x (w : ResetDraw) (s : State) : (s.setDraw w).x = w.x := rfl
@[simp] theorem State.setDraw_y (w : ResetDraw) (s : State) : (s.setDraw w).y = w.y := rfl
@[simp] theorem State.setDraw_sp (w : ResetDraw) (s : State) : (s.setDraw w).sp = w.sp := rfl
@[simp] theorem State.setDraw_pc (w : ResetDraw) (s : State) : (s.setDraw w).pc = s.pc := rfl
@[simp] theorem State.setDraw_n (w : ResetDraw) (s : State) : (s.setDraw w).n = w.n := rfl
@[simp] theorem State.setDraw_v (w : ResetDraw) (s : State) : (s.setDraw w).v = w.v := rfl
@[simp] theorem State.setDraw_d (w : ResetDraw) (s : State) : (s.setDraw w).d = s.d := rfl
@[simp] theorem State.setDraw_i (w : ResetDraw) (s : State) : (s.setDraw w).i = s.i := rfl
@[simp] theorem State.setDraw_z (w : ResetDraw) (s : State) : (s.setDraw w).z = w.z := rfl
@[simp] theorem State.setDraw_c (w : ResetDraw) (s : State) : (s.setDraw w).c = w.c := rfl
@[simp] theorem State.setDraw_run (w : ResetDraw) (s : State) : (s.setDraw w).run = s.run := rfl
@[simp] theorem State.setDraw_nmiPending (w : ResetDraw) (s : State) : (s.setDraw w).nmiPending = s.nmiPending := rfl
@[simp] theorem State.setDraw_mem (w : ResetDraw) (s : State) : (s.setDraw w).mem = s.mem := rfl
@[simp] theorem State.setDraw_regions (w : ResetDraw) (s : State) : (s.setDraw w).regions = s.regions := rfl
@[simp] theorem State.setDraw_inputs (w : ResetDraw) (s : State) : (s.setDraw w).inputs = s.inputs := rfl
@[simp] theorem State.setDraw_ioLog (w : ResetDraw) (s : State) : (s.setDraw w).ioLog = s.ioLog := rfl
@[simp] theorem State.setDraw_draws (w : ResetDraw) (s : State) : (s.setDraw w).draws = s.draws := rfl
@[simp] theorem State.setDraw_cycles (w : ResetDraw) (s : State) : (s.setDraw w).cycles = s.cycles := rfl

end Sys2Proof.Machine
end

