-- ==== Sys2Proof/Laws/Ops.lean ====
section
/-! SUPPORT. What each shared operation over memory and the stack can do, said once: a read changes only the IO history and
the index of the next free value, a store changes only one byte of RAM or the IO history, and what the stack, the
interrupt sequence and the reset sequence leave in each field. -/

namespace Sys2Proof.Machine

/-! ### Reads -/

/-- A read changes at most the IO history and the index of the next free value. -/
theorem State.load_spec (b : Word) (s : State) :
    ∃ log k, (s.load b).2 = { s with ioLog := log, draws := k } := by
  unfold State.load
  split
  · exact ⟨s.ioLog, s.draws, rfl⟩
  · exact ⟨s.ioLog, s.draws, rfl⟩
  · exact ⟨_, s.draws, rfl⟩
  · exact ⟨s.ioLog, _, rfl⟩

/-- A read of RAM or ROM answers the byte stored there and changes nothing. -/
theorem State.load_of_memory {b : Word} {s : State} (h : s.region b = .ram ∨ s.region b = .rom) :
    s.load b = (s.peek b, s) := by
  unfold State.load
  rcases h with h | h <;> rw [h]

@[simp] theorem State.load_a (b : Word) (s : State) : (s.load b).2.a = s.a := by
  obtain ⟨log, k, h⟩ := State.load_spec b s; rw [h]
@[simp] theorem State.load_x (b : Word) (s : State) : (s.load b).2.x = s.x := by
  obtain ⟨log, k, h⟩ := State.load_spec b s; rw [h]
@[simp] theorem State.load_y (b : Word) (s : State) : (s.load b).2.y = s.y := by
  obtain ⟨log, k, h⟩ := State.load_spec b s; rw [h]
@[simp] theorem State.load_sp (b : Word) (s : State) : (s.load b).2.sp = s.sp := by
  obtain ⟨log, k, h⟩ := State.load_spec b s; rw [h]
@[simp] theorem State.load_pc (b : Word) (s : State) : (s.load b).2.pc = s.pc := by
  obtain ⟨log, k, h⟩ := State.load_spec b s; rw [h]
@[simp] theorem State.load_n (b : Word) (s : State) : (s.load b).2.n = s.n := by
  obtain ⟨log, k, h⟩ := State.load_spec b s; rw [h]
@[simp] theorem State.load_v (b : Word) (s : State) : (s.load b).2.v = s.v := by
  obtain ⟨log, k, h⟩ := State.load_spec b s; rw [h]
@[simp] theorem State.load_d (b : Word) (s : State) : (s.load b).2.d = s.d := by
  obtain ⟨log, k, h⟩ := State.load_spec b s; rw [h]
@[simp] theorem State.load_i (b : Word) (s : State) : (s.load b).2.i = s.i := by
  obtain ⟨log, k, h⟩ := State.load_spec b s; rw [h]
@[simp] theorem State.load_z (b : Word) (s : State) : (s.load b).2.z = s.z := by
  obtain ⟨log, k, h⟩ := State.load_spec b s; rw [h]
@[simp] theorem State.load_c (b : Word) (s : State) : (s.load b).2.c = s.c := by
  obtain ⟨log, k, h⟩ := State.load_spec b s; rw [h]
@[simp] theorem State.load_run (b : Word) (s : State) : (s.load b).2.run = s.run := by
  obtain ⟨log, k, h⟩ := State.load_spec b s; rw [h]
@[simp] theorem State.load_nmiPending (b : Word) (s : State) : (s.load b).2.nmiPending = s.nmiPending := by
  obtain ⟨log, k, h⟩ := State.load_spec b s; rw [h]
@[simp] theorem State.load_mem (b : Word) (s : State) : (s.load b).2.mem = s.mem := by
  obtain ⟨log, k, h⟩ := State.load_spec b s; rw [h]
@[simp] theorem State.load_regions (b : Word) (s : State) : (s.load b).2.regions = s.regions := by
  obtain ⟨log, k, h⟩ := State.load_spec b s; rw [h]
@[simp] theorem State.load_inputs (b : Word) (s : State) : (s.load b).2.inputs = s.inputs := by
  obtain ⟨log, k, h⟩ := State.load_spec b s; rw [h]
@[simp] theorem State.load_cycles (b : Word) (s : State) : (s.load b).2.cycles = s.cycles := by
  obtain ⟨log, k, h⟩ := State.load_spec b s; rw [h]

@[simp] theorem State.read16_a (b : Word) (s : State) : (s.read16 b).2.a = s.a := by simp [State.read16]
@[simp] theorem State.read16_x (b : Word) (s : State) : (s.read16 b).2.x = s.x := by simp [State.read16]
@[simp] theorem State.read16_y (b : Word) (s : State) : (s.read16 b).2.y = s.y := by simp [State.read16]
@[simp] theorem State.read16_sp (b : Word) (s : State) : (s.read16 b).2.sp = s.sp := by simp [State.read16]
@[simp] theorem State.read16_pc (b : Word) (s : State) : (s.read16 b).2.pc = s.pc := by simp [State.read16]
@[simp] theorem State.read16_n (b : Word) (s : State) : (s.read16 b).2.n = s.n := by simp [State.read16]
@[simp] theorem State.read16_v (b : Word) (s : State) : (s.read16 b).2.v = s.v := by simp [State.read16]
@[simp] theorem State.read16_d (b : Word) (s : State) : (s.read16 b).2.d = s.d := by simp [State.read16]
@[simp] theorem State.read16_i (b : Word) (s : State) : (s.read16 b).2.i = s.i := by simp [State.read16]
@[simp] theorem State.read16_z (b : Word) (s : State) : (s.read16 b).2.z = s.z := by simp [State.read16]
@[simp] theorem State.read16_c (b : Word) (s : State) : (s.read16 b).2.c = s.c := by simp [State.read16]
@[simp] theorem State.read16_run (b : Word) (s : State) : (s.read16 b).2.run = s.run := by simp [State.read16]
@[simp] theorem State.read16_nmiPending (b : Word) (s : State) : (s.read16 b).2.nmiPending = s.nmiPending := by simp [State.read16]
@[simp] theorem State.read16_mem (b : Word) (s : State) : (s.read16 b).2.mem = s.mem := by simp [State.read16]
@[simp] theorem State.read16_regions (b : Word) (s : State) : (s.read16 b).2.regions = s.regions := by simp [State.read16]
@[simp] theorem State.read16_inputs (b : Word) (s : State) : (s.read16 b).2.inputs = s.inputs := by simp [State.read16]
@[simp] theorem State.read16_cycles (b : Word) (s : State) : (s.read16 b).2.cycles = s.cycles := by simp [State.read16]

@[simp] theorem State.read16zp_a (b : Byte) (s : State) : (s.read16zp b).2.a = s.a := by simp [State.read16zp]
@[simp] theorem State.read16zp_x (b : Byte) (s : State) : (s.read16zp b).2.x = s.x := by simp [State.read16zp]
@[simp] theorem State.read16zp_y (b : Byte) (s : State) : (s.read16zp b).2.y = s.y := by simp [State.read16zp]
@[simp] theorem State.read16zp_sp (b : Byte) (s : State) : (s.read16zp b).2.sp = s.sp := by simp [State.read16zp]
@[simp] theorem State.read16zp_pc (b : Byte) (s : State) : (s.read16zp b).2.pc = s.pc := by simp [State.read16zp]
@[simp] theorem State.read16zp_n (b : Byte) (s : State) : (s.read16zp b).2.n = s.n := by simp [State.read16zp]
@[simp] theorem State.read16zp_v (b : Byte) (s : State) : (s.read16zp b).2.v = s.v := by simp [State.read16zp]
@[simp] theorem State.read16zp_d (b : Byte) (s : State) : (s.read16zp b).2.d = s.d := by simp [State.read16zp]
@[simp] theorem State.read16zp_i (b : Byte) (s : State) : (s.read16zp b).2.i = s.i := by simp [State.read16zp]
@[simp] theorem State.read16zp_z (b : Byte) (s : State) : (s.read16zp b).2.z = s.z := by simp [State.read16zp]
@[simp] theorem State.read16zp_c (b : Byte) (s : State) : (s.read16zp b).2.c = s.c := by simp [State.read16zp]
@[simp] theorem State.read16zp_run (b : Byte) (s : State) : (s.read16zp b).2.run = s.run := by simp [State.read16zp]
@[simp] theorem State.read16zp_nmiPending (b : Byte) (s : State) : (s.read16zp b).2.nmiPending = s.nmiPending := by simp [State.read16zp]
@[simp] theorem State.read16zp_mem (b : Byte) (s : State) : (s.read16zp b).2.mem = s.mem := by simp [State.read16zp]
@[simp] theorem State.read16zp_regions (b : Byte) (s : State) : (s.read16zp b).2.regions = s.regions := by simp [State.read16zp]
@[simp] theorem State.read16zp_inputs (b : Byte) (s : State) : (s.read16zp b).2.inputs = s.inputs := by simp [State.read16zp]
@[simp] theorem State.read16zp_cycles (b : Byte) (s : State) : (s.read16zp b).2.cycles = s.cycles := by simp [State.read16zp]

/-- A 16-bit read of RAM or ROM answers the two bytes, low byte first, and changes nothing. -/
theorem State.read16_of_memory {b : Word} {s : State} (h : s.region b = .ram ∨ s.region b = .rom)
    (h' : s.region (b + 1) = .ram ∨ s.region (b + 1) = .rom) :
    s.read16 b = (word (s.peek (b + 1)) (s.peek b), s) := by
  unfold State.read16
  rw [State.load_of_memory h]
  simp only
  rw [State.load_of_memory h']

/-- A zero-page pointer read of RAM or ROM answers the two bytes and changes nothing. -/
theorem State.read16zp_of_memory {b : Byte} {s : State} (h : s.region (zext b) = .ram ∨ s.region (zext b) = .rom)
    (h' : s.region (zext (b + 1)) = .ram ∨ s.region (zext (b + 1)) = .rom) :
    s.read16zp b = (word (s.peek (zext (b + 1))) (s.peek (zext b)), s) := by
  unfold State.read16zp
  rw [State.load_of_memory h]
  simp only
  rw [State.load_of_memory h']

/-! ### Stores -/

/-- A store changes at most the memory and the IO history. -/
theorem State.store_spec (b : Word) (q : Byte) (s : State) :
    ∃ log, s.store b q =
      { s with mem := if s.region b = .ram then s.mem.write b.toNat q else s.mem, ioLog := log } := by
  unfold State.store
  split <;> rename_i h <;> rw [h]
  · exact ⟨s.ioLog, rfl⟩
  · exact ⟨s.ioLog, rfl⟩
  · exact ⟨_, rfl⟩
  · exact ⟨s.ioLog, rfl⟩

theorem State.store_mem (b : Word) (q : Byte) (s : State) :
    (s.store b q).mem = if s.region b = .ram then s.mem.write b.toNat q else s.mem := by
  obtain ⟨log, h⟩ := State.store_spec b q s; rw [h]

@[simp] theorem State.store_a (b : Word) (q : Byte) (s : State) : (s.store b q).a = s.a := by
  obtain ⟨log, h⟩ := State.store_spec b q s; rw [h]
@[simp] theorem State.store_x (b : Word) (q : Byte) (s : State) : (s.store b q).x = s.x := by
  obtain ⟨log, h⟩ := State.store_spec b q s; rw [h]
@[simp] theorem State.store_y (b : Word) (q : Byte) (s : State) : (s.store b q).y = s.y := by
  obtain ⟨log, h⟩ := State.store_spec b q s; rw [h]
@[simp] theorem State.store_sp (b : Word) (q : Byte) (s : State) : (s.store b q).sp = s.sp := by
  obtain ⟨log, h⟩ := State.store_spec b q s; rw [h]
@[simp] theorem State.store_pc (b : Word) (q : Byte) (s : State) : (s.store b q).pc = s.pc := by
  obtain ⟨log, h⟩ := State.store_spec b q s; rw [h]
@[simp] theorem State.store_n (b : Word) (q : Byte) (s : State) : (s.store b q).n = s.n := by
  obtain ⟨log, h⟩ := State.store_spec b q s; rw [h]
@[simp] theorem State.store_v (b : Word) (q : Byte) (s : State) : (s.store b q).v = s.v := by
  obtain ⟨log, h⟩ := State.store_spec b q s; rw [h]
@[simp] theorem State.store_d (b : Word) (q : Byte) (s : State) : (s.store b q).d = s.d := by
  obtain ⟨log, h⟩ := State.store_spec b q s; rw [h]
@[simp] theorem State.store_i (b : Word) (q : Byte) (s : State) : (s.store b q).i = s.i := by
  obtain ⟨log, h⟩ := State.store_spec b q s; rw [h]
@[simp] theorem State.store_z (b : Word) (q : Byte) (s : State) : (s.store b q).z = s.z := by
  obtain ⟨log, h⟩ := State.store_spec b q s; rw [h]
@[simp] theorem State.store_c (b : Word) (q : Byte) (s : State) : (s.store b q).c = s.c := by
  obtain ⟨log, h⟩ := State.store_spec b q s; rw [h]
@[simp] theorem State.store_run (b : Word) (q : Byte) (s : State) : (s.store b q).run = s.run := by
  obtain ⟨log, h⟩ := State.store_spec b q s; rw [h]
@[simp] theorem State.store_nmiPending (b : Word) (q : Byte) (s : State) : (s.store b q).nmiPending = s.nmiPending := by
  obtain ⟨log, h⟩ := State.store_spec b q s; rw [h]
@[simp] theorem State.store_regions (b : Word) (q : Byte) (s : State) : (s.store b q).regions = s.regions := by
  obtain ⟨log, h⟩ := State.store_spec b q s; rw [h]
@[simp] theorem State.store_inputs (b : Word) (q : Byte) (s : State) : (s.store b q).inputs = s.inputs := by
  obtain ⟨log, h⟩ := State.store_spec b q s; rw [h]
@[simp] theorem State.store_draws (b : Word) (q : Byte) (s : State) : (s.store b q).draws = s.draws := by
  obtain ⟨log, h⟩ := State.store_spec b q s; rw [h]
@[simp] theorem State.store_cycles (b : Word) (q : Byte) (s : State) : (s.store b q).cycles = s.cycles := by
  obtain ⟨log, h⟩ := State.store_spec b q s; rw [h]

/-- The kind of region at an address depends on the memory map alone. -/
theorem State.region_congr {s t : State} (h : t.regions = s.regions) (b : Word) : t.region b = s.region b := by
  simp [State.region, h]

@[simp] theorem State.store_region (b : Word) (q : Byte) (s : State) (e : Word) :
    (s.store b q).region e = s.region e := State.region_congr (by simp) e

@[simp] theorem State.load_region (b : Word) (s : State) (e : Word) :
    (s.load b).2.region e = s.region e := State.region_congr (by simp) e

@[simp] theorem State.load_peek (b : Word) (s : State) (e : Word) : (s.load b).2.peek e = s.peek e := by
  simp [State.peek]

/-- What a byte reads as after a store: the stored byte at a RAM address, every other byte as before. -/
theorem State.store_peek (b : Word) (q : Byte) {s : State} (hm : s.mem.wf = true) (e : Word) :
    (s.store b q).peek e = if e = b ∧ s.region b = .ram then q else s.peek e := by
  unfold State.peek
  rw [State.store_mem]
  by_cases hr : s.region b = .ram
  · by_cases he : e = b
    · simp [hr, he, Memory.read_write_same hm]
    · have : e.toNat ≠ b.toNat := fun h => he (BitVec.eq_of_toNat_eq h)
      simp [hr, he, Memory.read_write_ne _ this]
  · simp [hr]

theorem State.store_peek_ne {b e : Word} (q : Byte) (s : State) (h : e ≠ b) :
    (s.store b q).peek e = s.peek e := by
  have h' : e.toNat ≠ b.toNat := fun g => h (BitVec.eq_of_toNat_eq g)
  unfold State.peek
  rw [State.store_mem]
  split
  · exact Memory.read_write_ne q h' s.mem
  · rfl

/-- A store to an address that is not RAM changes no byte. -/
theorem State.store_peek_of_not_ram {b : Word} (q : Byte) {s : State} (h : s.region b ≠ .ram) (e : Word) :
    (s.store b q).peek e = s.peek e := by
  unfold State.peek
  rw [State.store_mem, if_neg h]

/-- A store keeps the canonical form of memory. -/
theorem State.store_wf {b : Word} {q : Byte} {s : State} (h : s.mem.wf = true) : (s.store b q).mem.wf = true := by
  rw [State.store_mem]
  split
  · exact Memory.write_wf h b.isLt q
  · exact h

/-! ### The stack -/

/-- A push stores at the old stack address, then SP is one less. -/
theorem State.push8_spec (q : Byte) (s : State) :
    s.push8 q = { s.store (stackAddr s.sp) q with sp := s.sp - 1 } := by
  simp [State.push8]

@[simp] theorem State.push8_a (q : Byte) (s : State) : (s.push8 q).a = s.a := by
  simp [State.push8]
@[simp] theorem State.push8_x (q : Byte) (s : State) : (s.push8 q).x = s.x := by
  simp [State.push8]
@[simp] theorem State.push8_y (q : Byte) (s : State) : (s.push8 q).y = s.y := by
  simp [State.push8]
@[simp] theorem State.push8_sp (q : Byte) (s : State) : (s.push8 q).sp = s.sp - 1 := by
  simp [State.push8]
@[simp] theorem State.push8_pc (q : Byte) (s : State) : (s.push8 q).pc = s.pc := by
  simp [State.push8]
@[simp] theorem State.push8_n (q : Byte) (s : State) : (s.push8 q).n = s.n := by
  simp [State.push8]
@[simp] theorem State.push8_v (q : Byte) (s : State) : (s.push8 q).v = s.v := by
  simp [State.push8]
@[simp] theorem State.push8_d (q : Byte) (s : State) : (s.push8 q).d = s.d := by
  simp [State.push8]
@[simp] theorem State.push8_i (q : Byte) (s : State) : (s.push8 q).i = s.i := by
  simp [State.push8]
@[simp] theorem State.push8_z (q : Byte) (s : State) : (s.push8 q).z = s.z := by
  simp [State.push8]
@[simp] theorem State.push8_c (q : Byte) (s : State) : (s.push8 q).c = s.c := by
  simp [State.push8]
@[simp] theorem State.push8_run (q : Byte) (s : State) : (s.push8 q).run = s.run := by
  simp [State.push8]
@[simp] theorem State.push8_nmiPending (q : Byte) (s : State) : (s.push8 q).nmiPending = s.nmiPending := by
  simp [State.push8]
@[simp] theorem State.push8_regions (q : Byte) (s : State) : (s.push8 q).regions = s.regions := by
  simp [State.push8]
@[simp] theorem State.push8_inputs (q : Byte) (s : State) : (s.push8 q).inputs = s.inputs := by
  simp [State.push8]
@[simp] theorem State.push8_draws (q : Byte) (s : State) : (s.push8 q).draws = s.draws := by
  simp [State.push8]
@[simp] theorem State.push8_cycles (q : Byte) (s : State) : (s.push8 q).cycles = s.cycles := by
  simp [State.push8]

theorem State.push8_mem (q : Byte) (s : State) : (s.push8 q).mem = (s.store (stackAddr s.sp) q).mem := rfl

theorem State.push8_peek (q : Byte) {s : State} (hm : s.mem.wf = true) (e : Word) :
    (s.push8 q).peek e = if e = stackAddr s.sp ∧ s.region (stackAddr s.sp) = .ram then q else s.peek e := by
  rw [← State.store_peek _ q hm]; rfl

theorem State.push8_peek_ne (q : Byte) (s : State) {e : Word} (h : e ≠ stackAddr s.sp) :
    (s.push8 q).peek e = s.peek e := State.store_peek_ne q s h

@[simp] theorem State.push8_region (q : Byte) (s : State) (e : Word) : (s.push8 q).region e = s.region e :=
  State.region_congr (by simp) e

theorem State.push8_wf {q : Byte} {s : State} (h : s.mem.wf = true) : (s.push8 q).mem.wf = true := by
  rw [State.push8_mem]; exact State.store_wf h

@[simp] theorem State.push16_a (w : Word) (s : State) : (s.push16 w).a = s.a := by
  simp [State.push16]
@[simp] theorem State.push16_x (w : Word) (s : State) : (s.push16 w).x = s.x := by
  simp [State.push16]
@[simp] theorem State.push16_y (w : Word) (s : State) : (s.push16 w).y = s.y := by
  simp [State.push16]
@[simp] theorem State.push16_sp (w : Word) (s : State) : (s.push16 w).sp = s.sp - 1 - 1 := by
  simp [State.push16]
@[simp] theorem State.push16_pc (w : Word) (s : State) : (s.push16 w).pc = s.pc := by
  simp [State.push16]
@[simp] theorem State.push16_n (w : Word) (s : State) : (s.push16 w).n = s.n := by
  simp [State.push16]
@[simp] theorem State.push16_v (w : Word) (s : State) : (s.push16 w).v = s.v := by
  simp [State.push16]
@[simp] theorem State.push16_d (w : Word) (s : State) : (s.push16 w).d = s.d := by
  simp [State.push16]
@[simp] theorem State.push16_i (w : Word) (s : State) : (s.push16 w).i = s.i := by
  simp [State.push16]
@[simp] theorem State.push16_z (w : Word) (s : State) : (s.push16 w).z = s.z := by
  simp [State.push16]
@[simp] theorem State.push16_c (w : Word) (s : State) : (s.push16 w).c = s.c := by
  simp [State.push16]
@[simp] theorem State.push16_run (w : Word) (s : State) : (s.push16 w).run = s.run := by
  simp [State.push16]
@[simp] theorem State.push16_nmiPending (w : Word) (s : State) : (s.push16 w).nmiPending = s.nmiPending := by
  simp [State.push16]
@[simp] theorem State.push16_regions (w : Word) (s : State) : (s.push16 w).regions = s.regions := by
  simp [State.push16]
@[simp] theorem State.push16_inputs (w : Word) (s : State) : (s.push16 w).inputs = s.inputs := by
  simp [State.push16]
@[simp] theorem State.push16_draws (w : Word) (s : State) : (s.push16 w).draws = s.draws := by
  simp [State.push16]
@[simp] theorem State.push16_cycles (w : Word) (s : State) : (s.push16 w).cycles = s.cycles := by
  simp [State.push16]

theorem State.push16_peek (w : Word) {s : State} (hm : s.mem.wf = true) (e : Word) :
    (s.push16 w).peek e =
      if e = stackAddr (s.sp - 1) ∧ s.region (stackAddr (s.sp - 1)) = .ram then lo w
      else if e = stackAddr s.sp ∧ s.region (stackAddr s.sp) = .ram then hi w
      else s.peek e := by
  unfold State.push16
  rw [State.push8_peek _ (State.push8_wf hm), State.push8_peek _ hm]
  simp

theorem State.push16_peek_ne (w : Word) (s : State) {e : Word} (h : e ≠ stackAddr s.sp)
    (h' : e ≠ stackAddr (s.sp - 1)) : (s.push16 w).peek e = s.peek e := by
  unfold State.push16
  rw [State.push8_peek_ne _ _ (by simpa using h'), State.push8_peek_ne _ _ h]

@[simp] theorem State.push16_region (w : Word) (s : State) (e : Word) : (s.push16 w).region e = s.region e :=
  State.region_congr (by simp) e

theorem State.push16_wf {w : Word} {s : State} (h : s.mem.wf = true) : (s.push16 w).mem.wf = true :=
  State.push8_wf (State.push8_wf h)

/-- A pull changes SP by one up, and otherwise at most the IO history and the index of the next free value. -/
theorem State.pull8_spec (s : State) :
    ∃ log k, s.pull8.2 = { s with sp := s.sp + 1, ioLog := log, draws := k } := by
  obtain ⟨log, k, h⟩ := State.load_spec (stackAddr (s.sp + 1)) { s with sp := s.sp + 1 }
  exact ⟨log, k, h⟩

/-- A pull from RAM or ROM answers the byte above SP. -/
theorem State.pull8_of_memory {s : State}
    (h : s.region (stackAddr (s.sp + 1)) = .ram ∨ s.region (stackAddr (s.sp + 1)) = .rom) :
    s.pull8 = (s.peek (stackAddr (s.sp + 1)), { s with sp := s.sp + 1 }) := by
  unfold State.pull8
  rw [State.load_of_memory (s := { s with sp := s.sp + 1 }) h]
  rfl

@[simp] theorem State.pull8_a (s : State) : s.pull8.2.a = s.a := by
  obtain ⟨log, k, h⟩ := State.pull8_spec s; rw [h]
@[simp] theorem State.pull8_x (s : State) : s.pull8.2.x = s.x := by
  obtain ⟨log, k, h⟩ := State.pull8_spec s; rw [h]
@[simp] theorem State.pull8_y (s : State) : s.pull8.2.y = s.y := by
  obtain ⟨log, k, h⟩ := State.pull8_spec s; rw [h]
@[simp] theorem State.pull8_sp (s : State) : s.pull8.2.sp = s.sp + 1 := by
  obtain ⟨log, k, h⟩ := State.pull8_spec s; rw [h]
@[simp] theorem State.pull8_pc (s : State) : s.pull8.2.pc = s.pc := by
  obtain ⟨log, k, h⟩ := State.pull8_spec s; rw [h]
@[simp] theorem State.pull8_n (s : State) : s.pull8.2.n = s.n := by
  obtain ⟨log, k, h⟩ := State.pull8_spec s; rw [h]
@[simp] theorem State.pull8_v (s : State) : s.pull8.2.v = s.v := by
  obtain ⟨log, k, h⟩ := State.pull8_spec s; rw [h]
@[simp] theorem State.pull8_d (s : State) : s.pull8.2.d = s.d := by
  obtain ⟨log, k, h⟩ := State.pull8_spec s; rw [h]
@[simp] theorem State.pull8_i (s : State) : s.pull8.2.i = s.i := by
  obtain ⟨log, k, h⟩ := State.pull8_spec s; rw [h]
@[simp] theorem State.pull8_z (s : State) : s.pull8.2.z = s.z := by
  obtain ⟨log, k, h⟩ := State.pull8_spec s; rw [h]
@[simp] theorem State.pull8_c (s : State) : s.pull8.2.c = s.c := by
  obtain ⟨log, k, h⟩ := State.pull8_spec s; rw [h]
@[simp] theorem State.pull8_run (s : State) : s.pull8.2.run = s.run := by
  obtain ⟨log, k, h⟩ := State.pull8_spec s; rw [h]
@[simp] theorem State.pull8_nmiPending (s : State) : s.pull8.2.nmiPending = s.nmiPending := by
  obtain ⟨log, k, h⟩ := State.pull8_spec s; rw [h]
@[simp] theorem State.pull8_mem (s : State) : s.pull8.2.mem = s.mem := by
  obtain ⟨log, k, h⟩ := State.pull8_spec s; rw [h]
@[simp] theorem State.pull8_regions (s : State) : s.pull8.2.regions = s.regions := by
  obtain ⟨log, k, h⟩ := State.pull8_spec s; rw [h]
@[simp] theorem State.pull8_inputs (s : State) : s.pull8.2.inputs = s.inputs := by
  obtain ⟨log, k, h⟩ := State.pull8_spec s; rw [h]
@[simp] theorem State.pull8_cycles (s : State) : s.pull8.2.cycles = s.cycles := by
  obtain ⟨log, k, h⟩ := State.pull8_spec s; rw [h]

@[simp] theorem State.pull16_a (s : State) : s.pull16.2.a = s.a := by simp [State.pull16]
@[simp] theorem State.pull16_x (s : State) : s.pull16.2.x = s.x := by simp [State.pull16]
@[simp] theorem State.pull16_y (s : State) : s.pull16.2.y = s.y := by simp [State.pull16]
@[simp] theorem State.pull16_sp (s : State) : s.pull16.2.sp = s.sp + 1 + 1 := by simp [State.pull16]
@[simp] theorem State.pull16_pc (s : State) : s.pull16.2.pc = s.pc := by simp [State.pull16]
@[simp] theorem State.pull16_n (s : State) : s.pull16.2.n = s.n := by simp [State.pull16]
@[simp] theorem State.pull16_v (s : State) : s.pull16.2.v = s.v := by simp [State.pull16]
@[simp] theorem State.pull16_d (s : State) : s.pull16.2.d = s.d := by simp [State.pull16]
@[simp] theorem State.pull16_i (s : State) : s.pull16.2.i = s.i := by simp [State.pull16]
@[simp] theorem State.pull16_z (s : State) : s.pull16.2.z = s.z := by simp [State.pull16]
@[simp] theorem State.pull16_c (s : State) : s.pull16.2.c = s.c := by simp [State.pull16]
@[simp] theorem State.pull16_run (s : State) : s.pull16.2.run = s.run := by simp [State.pull16]
@[simp] theorem State.pull16_nmiPending (s : State) : s.pull16.2.nmiPending = s.nmiPending := by simp [State.pull16]
@[simp] theorem State.pull16_mem (s : State) : s.pull16.2.mem = s.mem := by simp [State.pull16]
@[simp] theorem State.pull16_regions (s : State) : s.pull16.2.regions = s.regions := by simp [State.pull16]
@[simp] theorem State.pull16_inputs (s : State) : s.pull16.2.inputs = s.inputs := by simp [State.pull16]
@[simp] theorem State.pull16_cycles (s : State) : s.pull16.2.cycles = s.cycles := by simp [State.pull16]

/-! ### The interrupt sequence, the return from it, and reset -/

@[simp] theorem State.interrupt_a (w : Word) (b : Bool) (s : State) : (s.interrupt w b).a = s.a := by
  simp [State.interrupt]
@[simp] theorem State.interrupt_x (w : Word) (b : Bool) (s : State) : (s.interrupt w b).x = s.x := by
  simp [State.interrupt]
@[simp] theorem State.interrupt_y (w : Word) (b : Bool) (s : State) : (s.interrupt w b).y = s.y := by
  simp [State.interrupt]
@[simp] theorem State.interrupt_sp (w : Word) (b : Bool) (s : State) : (s.interrupt w b).sp = s.sp - 1 - 1 - 1 := by
  simp [State.interrupt]
@[simp] theorem State.interrupt_n (w : Word) (b : Bool) (s : State) : (s.interrupt w b).n = s.n := by
  simp [State.interrupt]
@[simp] theorem State.interrupt_v (w : Word) (b : Bool) (s : State) : (s.interrupt w b).v = s.v := by
  simp [State.interrupt]
@[simp] theorem State.interrupt_d (w : Word) (b : Bool) (s : State) : (s.interrupt w b).d = false := by
  simp [State.interrupt]
@[simp] theorem State.interrupt_i (w : Word) (b : Bool) (s : State) : (s.interrupt w b).i = true := by
  simp [State.interrupt]
@[simp] theorem State.interrupt_z (w : Word) (b : Bool) (s : State) : (s.interrupt w b).z = s.z := by
  simp [State.interrupt]
@[simp] theorem State.interrupt_c (w : Word) (b : Bool) (s : State) : (s.interrupt w b).c = s.c := by
  simp [State.interrupt]
@[simp] theorem State.interrupt_run (w : Word) (b : Bool) (s : State) : (s.interrupt w b).run = .running := by
  simp [State.interrupt]
@[simp] theorem State.interrupt_nmiPending (w : Word) (b : Bool) (s : State) : (s.interrupt w b).nmiPending = s.nmiPending := by
  simp [State.interrupt]
@[simp] theorem State.interrupt_regions (w : Word) (b : Bool) (s : State) : (s.interrupt w b).regions = s.regions := by
  simp [State.interrupt]
@[simp] theorem State.interrupt_inputs (w : Word) (b : Bool) (s : State) : (s.interrupt w b).inputs = s.inputs := by
  simp [State.interrupt]
@[simp] theorem State.interrupt_cycles (w : Word) (b : Bool) (s : State) : (s.interrupt w b).cycles = s.cycles := by
  simp [State.interrupt]

/-- The memory after an interrupt sequence: three pushes. -/
theorem State.interrupt_mem (w : Word) (b : Bool) (s : State) :
    (s.interrupt w b).mem = ((s.push16 s.pc).push8 ((s.push16 s.pc).srImage b)).mem := by
  simp [State.interrupt]

@[simp] theorem State.push16_srImage (w : Word) (b : Bool) (s : State) : (s.push16 w).srImage b = s.srImage b := by
  simp [State.srImage]

/-- The interrupt sequence keeps the canonical form of memory. -/
theorem State.interrupt_wf {w : Word} {b : Bool} {s : State} (h : s.mem.wf = true) :
    (s.interrupt w b).mem.wf = true := by
  rw [State.interrupt_mem]; exact State.push8_wf (State.push16_wf h)

@[simp] theorem State.returnFromInterrupt_a (s : State) : s.returnFromInterrupt.a = s.a := by
  simp [State.returnFromInterrupt]
@[simp] theorem State.returnFromInterrupt_x (s : State) : s.returnFromInterrupt.x = s.x := by
  simp [State.returnFromInterrupt]
@[simp] theorem State.returnFromInterrupt_y (s : State) : s.returnFromInterrupt.y = s.y := by
  simp [State.returnFromInterrupt]
@[simp] theorem State.returnFromInterrupt_sp (s : State) : s.returnFromInterrupt.sp = s.sp + 1 + 1 + 1 := by
  simp [State.returnFromInterrupt]
@[simp] theorem State.returnFromInterrupt_run (s : State) : s.returnFromInterrupt.run = s.run := by
  simp [State.returnFromInterrupt]
@[simp] theorem State.returnFromInterrupt_nmiPending (s : State) : s.returnFromInterrupt.nmiPending = s.nmiPending := by
  simp [State.returnFromInterrupt]
@[simp] theorem State.returnFromInterrupt_mem (s : State) : s.returnFromInterrupt.mem = s.mem := by
  simp [State.returnFromInterrupt]
@[simp] theorem State.returnFromInterrupt_regions (s : State) : s.returnFromInterrupt.regions = s.regions := by
  simp [State.returnFromInterrupt]
@[simp] theorem State.returnFromInterrupt_inputs (s : State) : s.returnFromInterrupt.inputs = s.inputs := by
  simp [State.returnFromInterrupt]
@[simp] theorem State.returnFromInterrupt_cycles (s : State) : s.returnFromInterrupt.cycles = s.cycles := by
  simp [State.returnFromInterrupt]

@[simp] theorem State.takeReset_a (s : State) : s.takeReset.a = (Config.resetDraw s.draws).a := by simp [State.takeReset]
@[simp] theorem State.takeReset_x (s : State) : s.takeReset.x = (Config.resetDraw s.draws).x := by simp [State.takeReset]
@[simp] theorem State.takeReset_y (s : State) : s.takeReset.y = (Config.resetDraw s.draws).y := by simp [State.takeReset]
@[simp] theorem State.takeReset_sp (s : State) : s.takeReset.sp = (Config.resetDraw s.draws).sp := by simp [State.takeReset]
@[simp] theorem State.takeReset_n (s : State) : s.takeReset.n = (Config.resetDraw s.draws).n := by simp [State.takeReset]
@[simp] theorem State.takeReset_v (s : State) : s.takeReset.v = (Config.resetDraw s.draws).v := by simp [State.takeReset]
@[simp] theorem State.takeReset_d (s : State) : s.takeReset.d = false := by simp [State.takeReset]
@[simp] theorem State.takeReset_i (s : State) : s.takeReset.i = true := by simp [State.takeReset]
@[simp] theorem State.takeReset_z (s : State) : s.takeReset.z = (Config.resetDraw s.draws).z := by simp [State.takeReset]
@[simp] theorem State.takeReset_c (s : State) : s.takeReset.c = (Config.resetDraw s.draws).c := by simp [State.takeReset]
@[simp] theorem State.takeReset_run (s : State) : s.takeReset.run = .running := by simp [State.takeReset]
@[simp] theorem State.takeReset_nmiPending (s : State) : s.takeReset.nmiPending = false := by simp [State.takeReset]
@[simp] theorem State.takeReset_mem (s : State) : s.takeReset.mem = s.mem := by simp [State.takeReset]
@[simp] theorem State.takeReset_regions (s : State) : s.takeReset.regions = s.regions := by simp [State.takeReset]
@[simp] theorem State.takeReset_inputs (s : State) : s.takeReset.inputs = s.inputs := by simp [State.takeReset]
@[simp] theorem State.takeReset_cycles (s : State) : s.takeReset.cycles = s.cycles := by simp [State.takeReset]

end Sys2Proof.Machine
end

