-- ==== Sys2Proof/Laws/Operands.lean ====
section
/-! SUPPORT. What reading an operand, finding its place and writing it back can do, and what each shape of instruction
answers: always a next state, whose fields these lemmas give. -/

namespace Sys2Proof.Machine

@[simp] theorem effAddr_a (m : AddrMode) (s : State) : (effAddr m s).2.a = s.a := by cases m <;> simp [effAddr]
@[simp] theorem effAddr_x (m : AddrMode) (s : State) : (effAddr m s).2.x = s.x := by cases m <;> simp [effAddr]
@[simp] theorem effAddr_y (m : AddrMode) (s : State) : (effAddr m s).2.y = s.y := by cases m <;> simp [effAddr]
@[simp] theorem effAddr_sp (m : AddrMode) (s : State) : (effAddr m s).2.sp = s.sp := by cases m <;> simp [effAddr]
@[simp] theorem effAddr_pc (m : AddrMode) (s : State) : (effAddr m s).2.pc = s.pc := by cases m <;> simp [effAddr]
@[simp] theorem effAddr_n (m : AddrMode) (s : State) : (effAddr m s).2.n = s.n := by cases m <;> simp [effAddr]
@[simp] theorem effAddr_v (m : AddrMode) (s : State) : (effAddr m s).2.v = s.v := by cases m <;> simp [effAddr]
@[simp] theorem effAddr_d (m : AddrMode) (s : State) : (effAddr m s).2.d = s.d := by cases m <;> simp [effAddr]
@[simp] theorem effAddr_i (m : AddrMode) (s : State) : (effAddr m s).2.i = s.i := by cases m <;> simp [effAddr]
@[simp] theorem effAddr_z (m : AddrMode) (s : State) : (effAddr m s).2.z = s.z := by cases m <;> simp [effAddr]
@[simp] theorem effAddr_c (m : AddrMode) (s : State) : (effAddr m s).2.c = s.c := by cases m <;> simp [effAddr]
@[simp] theorem effAddr_run (m : AddrMode) (s : State) : (effAddr m s).2.run = s.run := by cases m <;> simp [effAddr]
@[simp] theorem effAddr_nmiPending (m : AddrMode) (s : State) : (effAddr m s).2.nmiPending = s.nmiPending := by cases m <;> simp [effAddr]
@[simp] theorem effAddr_mem (m : AddrMode) (s : State) : (effAddr m s).2.mem = s.mem := by cases m <;> simp [effAddr]
@[simp] theorem effAddr_regions (m : AddrMode) (s : State) : (effAddr m s).2.regions = s.regions := by cases m <;> simp [effAddr]
@[simp] theorem effAddr_inputs (m : AddrMode) (s : State) : (effAddr m s).2.inputs = s.inputs := by cases m <;> simp [effAddr]
@[simp] theorem effAddr_cycles (m : AddrMode) (s : State) : (effAddr m s).2.cycles = s.cycles := by cases m <;> simp [effAddr]

/-- Forming an effective address changes at most the IO history and the index of the next free value. -/
theorem effAddr_spec (m : AddrMode) (s : State) :
    ∃ log k, (effAddr m s).2 = { s with ioLog := log, draws := k } := by
  refine ⟨(effAddr m s).2.ioLog, (effAddr m s).2.draws, ?_⟩
  cases h : (effAddr m s).2
  have := congrArg State.a h
  simp only [State.mk.injEq]
  refine ⟨?_, ?_, ?_, ?_, ?_, ?_, ?_, ?_, ?_, ?_, ?_, ?_, ?_, ?_, ?_, ?_, ?_⟩
  · simpa using (congrArg State.a h).symm
  · simpa using (congrArg State.x h).symm
  · simpa using (congrArg State.y h).symm
  · simpa using (congrArg State.sp h).symm
  · simpa using (congrArg State.pc h).symm
  · simpa using (congrArg State.n h).symm
  · simpa using (congrArg State.v h).symm
  · simpa using (congrArg State.d h).symm
  · simpa using (congrArg State.i h).symm
  · simpa using (congrArg State.z h).symm
  · simpa using (congrArg State.c h).symm
  · simpa using (congrArg State.run h).symm
  · simpa using (congrArg State.nmiPending h).symm
  · simpa using (congrArg State.mem h).symm
  · simpa using (congrArg State.regions h).symm
  · simpa using (congrArg State.inputs h).symm
  · simpa using (congrArg State.cycles h).symm

@[simp] theorem loadMem_a (m : AddrMode) (s : State) : (loadMem m s).2.a = s.a := by simp [loadMem]
@[simp] theorem loadMem_x (m : AddrMode) (s : State) : (loadMem m s).2.x = s.x := by simp [loadMem]
@[simp] theorem loadMem_y (m : AddrMode) (s : State) : (loadMem m s).2.y = s.y := by simp [loadMem]
@[simp] theorem loadMem_sp (m : AddrMode) (s : State) : (loadMem m s).2.sp = s.sp := by simp [loadMem]
@[simp] theorem loadMem_pc (m : AddrMode) (s : State) : (loadMem m s).2.pc = s.pc := by simp [loadMem]
@[simp] theorem loadMem_n (m : AddrMode) (s : State) : (loadMem m s).2.n = s.n := by simp [loadMem]
@[simp] theorem loadMem_v (m : AddrMode) (s : State) : (loadMem m s).2.v = s.v := by simp [loadMem]
@[simp] theorem loadMem_d (m : AddrMode) (s : State) : (loadMem m s).2.d = s.d := by simp [loadMem]
@[simp] theorem loadMem_i (m : AddrMode) (s : State) : (loadMem m s).2.i = s.i := by simp [loadMem]
@[simp] theorem loadMem_z (m : AddrMode) (s : State) : (loadMem m s).2.z = s.z := by simp [loadMem]
@[simp] theorem loadMem_c (m : AddrMode) (s : State) : (loadMem m s).2.c = s.c := by simp [loadMem]
@[simp] theorem loadMem_run (m : AddrMode) (s : State) : (loadMem m s).2.run = s.run := by simp [loadMem]
@[simp] theorem loadMem_nmiPending (m : AddrMode) (s : State) : (loadMem m s).2.nmiPending = s.nmiPending := by simp [loadMem]
@[simp] theorem loadMem_mem (m : AddrMode) (s : State) : (loadMem m s).2.mem = s.mem := by simp [loadMem]
@[simp] theorem loadMem_regions (m : AddrMode) (s : State) : (loadMem m s).2.regions = s.regions := by simp [loadMem]
@[simp] theorem loadMem_inputs (m : AddrMode) (s : State) : (loadMem m s).2.inputs = s.inputs := by simp [loadMem]
@[simp] theorem loadMem_cycles (m : AddrMode) (s : State) : (loadMem m s).2.cycles = s.cycles := by simp [loadMem]

@[simp] theorem operand_a (q : Source) (s : State) : (operand q s).2.a = s.a := by cases q <;> simp [operand]
@[simp] theorem operand_x (q : Source) (s : State) : (operand q s).2.x = s.x := by cases q <;> simp [operand]
@[simp] theorem operand_y (q : Source) (s : State) : (operand q s).2.y = s.y := by cases q <;> simp [operand]
@[simp] theorem operand_sp (q : Source) (s : State) : (operand q s).2.sp = s.sp := by cases q <;> simp [operand]
@[simp] theorem operand_pc (q : Source) (s : State) : (operand q s).2.pc = s.pc := by cases q <;> simp [operand]
@[simp] theorem operand_n (q : Source) (s : State) : (operand q s).2.n = s.n := by cases q <;> simp [operand]
@[simp] theorem operand_v (q : Source) (s : State) : (operand q s).2.v = s.v := by cases q <;> simp [operand]
@[simp] theorem operand_d (q : Source) (s : State) : (operand q s).2.d = s.d := by cases q <;> simp [operand]
@[simp] theorem operand_i (q : Source) (s : State) : (operand q s).2.i = s.i := by cases q <;> simp [operand]
@[simp] theorem operand_z (q : Source) (s : State) : (operand q s).2.z = s.z := by cases q <;> simp [operand]
@[simp] theorem operand_c (q : Source) (s : State) : (operand q s).2.c = s.c := by cases q <;> simp [operand]
@[simp] theorem operand_run (q : Source) (s : State) : (operand q s).2.run = s.run := by cases q <;> simp [operand]
@[simp] theorem operand_nmiPending (q : Source) (s : State) : (operand q s).2.nmiPending = s.nmiPending := by cases q <;> simp [operand]
@[simp] theorem operand_mem (q : Source) (s : State) : (operand q s).2.mem = s.mem := by cases q <;> simp [operand]
@[simp] theorem operand_regions (q : Source) (s : State) : (operand q s).2.regions = s.regions := by cases q <;> simp [operand]
@[simp] theorem operand_inputs (q : Source) (s : State) : (operand q s).2.inputs = s.inputs := by cases q <;> simp [operand]
@[simp] theorem operand_cycles (q : Source) (s : State) : (operand q s).2.cycles = s.cycles := by cases q <;> simp [operand]

@[simp] theorem placeOf_a (t : Target) (s : State) : (placeOf t s).2.a = s.a := by cases t <;> simp [placeOf]
@[simp] theorem placeOf_x (t : Target) (s : State) : (placeOf t s).2.x = s.x := by cases t <;> simp [placeOf]
@[simp] theorem placeOf_y (t : Target) (s : State) : (placeOf t s).2.y = s.y := by cases t <;> simp [placeOf]
@[simp] theorem placeOf_sp (t : Target) (s : State) : (placeOf t s).2.sp = s.sp := by cases t <;> simp [placeOf]
@[simp] theorem placeOf_pc (t : Target) (s : State) : (placeOf t s).2.pc = s.pc := by cases t <;> simp [placeOf]
@[simp] theorem placeOf_n (t : Target) (s : State) : (placeOf t s).2.n = s.n := by cases t <;> simp [placeOf]
@[simp] theorem placeOf_v (t : Target) (s : State) : (placeOf t s).2.v = s.v := by cases t <;> simp [placeOf]
@[simp] theorem placeOf_d (t : Target) (s : State) : (placeOf t s).2.d = s.d := by cases t <;> simp [placeOf]
@[simp] theorem placeOf_i (t : Target) (s : State) : (placeOf t s).2.i = s.i := by cases t <;> simp [placeOf]
@[simp] theorem placeOf_z (t : Target) (s : State) : (placeOf t s).2.z = s.z := by cases t <;> simp [placeOf]
@[simp] theorem placeOf_c (t : Target) (s : State) : (placeOf t s).2.c = s.c := by cases t <;> simp [placeOf]
@[simp] theorem placeOf_run (t : Target) (s : State) : (placeOf t s).2.run = s.run := by cases t <;> simp [placeOf]
@[simp] theorem placeOf_nmiPending (t : Target) (s : State) : (placeOf t s).2.nmiPending = s.nmiPending := by cases t <;> simp [placeOf]
@[simp] theorem placeOf_mem (t : Target) (s : State) : (placeOf t s).2.mem = s.mem := by cases t <;> simp [placeOf]
@[simp] theorem placeOf_regions (t : Target) (s : State) : (placeOf t s).2.regions = s.regions := by cases t <;> simp [placeOf]
@[simp] theorem placeOf_inputs (t : Target) (s : State) : (placeOf t s).2.inputs = s.inputs := by cases t <;> simp [placeOf]
@[simp] theorem placeOf_cycles (t : Target) (s : State) : (placeOf t s).2.cycles = s.cycles := by cases t <;> simp [placeOf]

@[simp] theorem readPlace_a (p : Place) (s : State) : (readPlace p s).2.a = s.a := by cases p <;> simp [readPlace]
@[simp] theorem readPlace_x (p : Place) (s : State) : (readPlace p s).2.x = s.x := by cases p <;> simp [readPlace]
@[simp] theorem readPlace_y (p : Place) (s : State) : (readPlace p s).2.y = s.y := by cases p <;> simp [readPlace]
@[simp] theorem readPlace_sp (p : Place) (s : State) : (readPlace p s).2.sp = s.sp := by cases p <;> simp [readPlace]
@[simp] theorem readPlace_pc (p : Place) (s : State) : (readPlace p s).2.pc = s.pc := by cases p <;> simp [readPlace]
@[simp] theorem readPlace_n (p : Place) (s : State) : (readPlace p s).2.n = s.n := by cases p <;> simp [readPlace]
@[simp] theorem readPlace_v (p : Place) (s : State) : (readPlace p s).2.v = s.v := by cases p <;> simp [readPlace]
@[simp] theorem readPlace_d (p : Place) (s : State) : (readPlace p s).2.d = s.d := by cases p <;> simp [readPlace]
@[simp] theorem readPlace_i (p : Place) (s : State) : (readPlace p s).2.i = s.i := by cases p <;> simp [readPlace]
@[simp] theorem readPlace_z (p : Place) (s : State) : (readPlace p s).2.z = s.z := by cases p <;> simp [readPlace]
@[simp] theorem readPlace_c (p : Place) (s : State) : (readPlace p s).2.c = s.c := by cases p <;> simp [readPlace]
@[simp] theorem readPlace_run (p : Place) (s : State) : (readPlace p s).2.run = s.run := by cases p <;> simp [readPlace]
@[simp] theorem readPlace_nmiPending (p : Place) (s : State) : (readPlace p s).2.nmiPending = s.nmiPending := by cases p <;> simp [readPlace]
@[simp] theorem readPlace_mem (p : Place) (s : State) : (readPlace p s).2.mem = s.mem := by cases p <;> simp [readPlace]
@[simp] theorem readPlace_regions (p : Place) (s : State) : (readPlace p s).2.regions = s.regions := by cases p <;> simp [readPlace]
@[simp] theorem readPlace_inputs (p : Place) (s : State) : (readPlace p s).2.inputs = s.inputs := by cases p <;> simp [readPlace]
@[simp] theorem readPlace_cycles (p : Place) (s : State) : (readPlace p s).2.cycles = s.cycles := by cases p <;> simp [readPlace]

@[simp] theorem writePlace_x (p : Place) (q : Byte) (s : State) : (writePlace p q s).x = s.x := by cases p <;> simp [writePlace]
@[simp] theorem writePlace_y (p : Place) (q : Byte) (s : State) : (writePlace p q s).y = s.y := by cases p <;> simp [writePlace]
@[simp] theorem writePlace_sp (p : Place) (q : Byte) (s : State) : (writePlace p q s).sp = s.sp := by cases p <;> simp [writePlace]
@[simp] theorem writePlace_pc (p : Place) (q : Byte) (s : State) : (writePlace p q s).pc = s.pc := by cases p <;> simp [writePlace]
@[simp] theorem writePlace_n (p : Place) (q : Byte) (s : State) : (writePlace p q s).n = s.n := by cases p <;> simp [writePlace]
@[simp] theorem writePlace_v (p : Place) (q : Byte) (s : State) : (writePlace p q s).v = s.v := by cases p <;> simp [writePlace]
@[simp] theorem writePlace_d (p : Place) (q : Byte) (s : State) : (writePlace p q s).d = s.d := by cases p <;> simp [writePlace]
@[simp] theorem writePlace_i (p : Place) (q : Byte) (s : State) : (writePlace p q s).i = s.i := by cases p <;> simp [writePlace]
@[simp] theorem writePlace_z (p : Place) (q : Byte) (s : State) : (writePlace p q s).z = s.z := by cases p <;> simp [writePlace]
@[simp] theorem writePlace_c (p : Place) (q : Byte) (s : State) : (writePlace p q s).c = s.c := by cases p <;> simp [writePlace]
@[simp] theorem writePlace_run (p : Place) (q : Byte) (s : State) : (writePlace p q s).run = s.run := by cases p <;> simp [writePlace]
@[simp] theorem writePlace_nmiPending (p : Place) (q : Byte) (s : State) : (writePlace p q s).nmiPending = s.nmiPending := by cases p <;> simp [writePlace]
@[simp] theorem writePlace_regions (p : Place) (q : Byte) (s : State) : (writePlace p q s).regions = s.regions := by cases p <;> simp [writePlace]
@[simp] theorem writePlace_inputs (p : Place) (q : Byte) (s : State) : (writePlace p q s).inputs = s.inputs := by cases p <;> simp [writePlace]
@[simp] theorem writePlace_draws (p : Place) (q : Byte) (s : State) : (writePlace p q s).draws = s.draws := by cases p <;> simp [writePlace]
@[simp] theorem writePlace_cycles (p : Place) (q : Byte) (s : State) : (writePlace p q s).cycles = s.cycles := by cases p <;> simp [writePlace]

@[simp] theorem branchIf_a (b : Bool) (o : Byte) (k : Nat) (s : State) : (branchIf b o k s).a = s.a := by cases b <;> rfl
@[simp] theorem branchIf_x (b : Bool) (o : Byte) (k : Nat) (s : State) : (branchIf b o k s).x = s.x := by cases b <;> rfl
@[simp] theorem branchIf_y (b : Bool) (o : Byte) (k : Nat) (s : State) : (branchIf b o k s).y = s.y := by cases b <;> rfl
@[simp] theorem branchIf_sp (b : Bool) (o : Byte) (k : Nat) (s : State) : (branchIf b o k s).sp = s.sp := by cases b <;> rfl
@[simp] theorem branchIf_n (b : Bool) (o : Byte) (k : Nat) (s : State) : (branchIf b o k s).n = s.n := by cases b <;> rfl
@[simp] theorem branchIf_v (b : Bool) (o : Byte) (k : Nat) (s : State) : (branchIf b o k s).v = s.v := by cases b <;> rfl
@[simp] theorem branchIf_d (b : Bool) (o : Byte) (k : Nat) (s : State) : (branchIf b o k s).d = s.d := by cases b <;> rfl
@[simp] theorem branchIf_i (b : Bool) (o : Byte) (k : Nat) (s : State) : (branchIf b o k s).i = s.i := by cases b <;> rfl
@[simp] theorem branchIf_z (b : Bool) (o : Byte) (k : Nat) (s : State) : (branchIf b o k s).z = s.z := by cases b <;> rfl
@[simp] theorem branchIf_c (b : Bool) (o : Byte) (k : Nat) (s : State) : (branchIf b o k s).c = s.c := by cases b <;> rfl
@[simp] theorem branchIf_run (b : Bool) (o : Byte) (k : Nat) (s : State) : (branchIf b o k s).run = s.run := by cases b <;> rfl
@[simp] theorem branchIf_nmiPending (b : Bool) (o : Byte) (k : Nat) (s : State) : (branchIf b o k s).nmiPending = s.nmiPending := by cases b <;> rfl
@[simp] theorem branchIf_mem (b : Bool) (o : Byte) (k : Nat) (s : State) : (branchIf b o k s).mem = s.mem := by cases b <;> rfl
@[simp] theorem branchIf_regions (b : Bool) (o : Byte) (k : Nat) (s : State) : (branchIf b o k s).regions = s.regions := by cases b <;> rfl
@[simp] theorem branchIf_inputs (b : Bool) (o : Byte) (k : Nat) (s : State) : (branchIf b o k s).inputs = s.inputs := by cases b <;> rfl
@[simp] theorem branchIf_ioLog (b : Bool) (o : Byte) (k : Nat) (s : State) : (branchIf b o k s).ioLog = s.ioLog := by cases b <;> rfl
@[simp] theorem branchIf_draws (b : Bool) (o : Byte) (k : Nat) (s : State) : (branchIf b o k s).draws = s.draws := by cases b <;> rfl
@[simp] theorem branchIf_cycles (b : Bool) (o : Byte) (k : Nat) (s : State) : (branchIf b o k s).cycles = s.cycles := by cases b <;> rfl

/-- PC after a branch (R130). -/
@[simp] theorem branchIf_pc (b : Bool) (o : Byte) (k : Nat) (s : State) :
    (branchIf b o k s).pc = if b then s.pc + BitVec.ofNat 16 k + sext o else s.pc + BitVec.ofNat 16 k := by
  cases b <;> rfl

/-! ### What an operand read, a place and a shape of instruction can do, said once -/

/-- Reading a memory operand changes at most the IO history and the index of the next free value. -/
theorem loadMem_spec (m : AddrMode) (s : State) :
    ∃ log k, (loadMem m s).2 = { s with ioLog := log, draws := k } := by
  obtain ⟨l, k, h⟩ := effAddr_spec m s
  obtain ⟨l', k', h'⟩ := State.load_spec (effAddr m s).1 (effAddr m s).2
  exact ⟨l', k', by unfold loadMem; simp only; rw [h', h]⟩

/-- Reading an operand changes at most the IO history and the index of the next free value. -/
theorem operand_spec (q : Source) (s : State) :
    ∃ log k, (operand q s).2 = { s with ioLog := log, draws := k } := by
  cases q with
  | imm b => exact ⟨s.ioLog, s.draws, rfl⟩
  | mem m => exact loadMem_spec m s

/-- Finding the place of an operand changes at most the IO history and the index of the next free value. -/
theorem placeOf_spec (t : Target) (s : State) :
    ∃ log k, (placeOf t s).2 = { s with ioLog := log, draws := k } := by
  cases t with
  | acc => exact ⟨s.ioLog, s.draws, rfl⟩
  | mem m => exact effAddr_spec m s

/-- Reading a place changes at most the IO history and the index of the next free value. -/
theorem readPlace_spec (p : Place) (s : State) :
    ∃ log k, (readPlace p s).2 = { s with ioLog := log, draws := k } := by
  cases p with
  | acc => exact ⟨s.ioLog, s.draws, rfl⟩
  | addr b => exact State.load_spec b s

@[simp] theorem writePlace_acc (q : Byte) (s : State) : writePlace .acc q s = { s with a := q } := rfl
@[simp] theorem writePlace_addr (b : Word) (q : Byte) (s : State) : writePlace (.addr b) q s = s.store b q := rfl

/-- Writing a place keeps the canonical form of memory. -/
theorem writePlace_wf {p : Place} {q : Byte} {s : State} (h : s.mem.wf = true) : (writePlace p q s).mem.wf = true := by
  cases p with
  | acc => exact h
  | addr b => exact State.store_wf h

/-- The shapes that store keep the canonical form of memory. -/
theorem modifyOperand_wf {f : Byte → Bool → Byte × Bool} {t : Target} {s u : State} (h : s.mem.wf = true)
    (e : modifyOperand f t s = .next u) : u.mem.wf = true := by
  unfold modifyOperand at e
  simp only [Host.Outcome.next.injEq] at e
  subst e
  simp only [State.advance_mem, State.setNZ_mem]
  exact writePlace_wf (by simpa using h)

theorem storeMem_wf {m : AddrMode} {q : Byte} {s u : State} (h : s.mem.wf = true)
    (e : storeMem m q s = .next u) : u.mem.wf = true := by
  unfold storeMem at e
  simp only [Host.Outcome.next.injEq] at e
  subst e
  simp only [State.advance_mem]
  exact State.store_wf (by simpa using h)

theorem modifyBits_wf {m : AddrMode} {test : Bool} {f : Byte → Byte} {s u : State} (h : s.mem.wf = true)
    (e : modifyBits m test f s = .next u) : u.mem.wf = true := by
  unfold modifyBits at e
  simp only [Host.Outcome.next.injEq] at e
  subst e
  simp only [State.advance_mem]
  refine State.store_wf ?_
  split <;> simpa using h

/-- At an IO address RMB, SMB, TRB and TSB are one read and then one write of the result. -/
theorem modifyBits_ioLog_of_io {m : AddrMode} {test : Bool} {f : Byte → Byte} {s u : State}
    (h : s.region (effAddr m s).1 = .io) (e : modifyBits m test f s = .next u) :
    u.ioLog = .write (effAddr m s).1 (f (loadMem m s).1) :: .read (effAddr m s).1 :: (effAddr m s).2.ioLog := by
  obtain ⟨log, k, he⟩ := effAddr_spec m s
  have hr : (effAddr m s).2.regions = s.regions := by rw [he]
  have hl : (effAddr m s).2.load (effAddr m s).1 =
      ((loadMem m s).1, { (effAddr m s).2 with ioLog := .read (effAddr m s).1 :: (effAddr m s).2.ioLog }) := by
    unfold loadMem
    simp only [State.load, State.region, hr]
    rw [State.region] at h
    rw [h]
  have hs : ∀ t : State, t.regions = s.regions →
      (t.store (effAddr m s).1 (f (loadMem m s).1)).ioLog =
        .write (effAddr m s).1 (f (loadMem m s).1) :: t.ioLog := fun t ht => by
    rw [State.region] at h
    simp only [State.store, State.region, ht, h]
  unfold modifyBits at e
  simp only [Host.Outcome.next.injEq] at e
  subst e
  simp only [hl, State.advance_ioLog]
  rw [hs _ (by split <;> simp)]
  split <;> simp

/-- An instruction that only reads its operand leaves memory as its action on the byte leaves it. -/
theorem withOperand_mem {q : Source} {f : Byte → State → State} {s u : State}
    (hf : ∀ b t, (f b t).mem = t.mem) (e : withOperand q f s = .next u) : u.mem = s.mem := by
  unfold withOperand at e
  simp only [Host.Outcome.next.injEq] at e
  subst e
  simp [hf]

/-- A relative branch answers a next state that differs in PC alone. -/
theorem branch_spec (b : Bool) (o : Byte) (s : State) :
    branch b o s = .next (s.jump (if b then s.pc + 2#16 + sext o else s.pc + 2#16)) := by
  cases b <;> rfl

/-- BBR and BBS read one byte and then change PC alone. -/
theorem branchOnBit_spec (k : Nat) (w : Bool) (z o : Byte) (s : State) :
    branchOnBit k w z o s = .next ((s.load (zext z)).2.jump
      (if (s.load (zext z)).1.getLsbD k = w then s.pc + 3#16 + sext o else s.pc + 3#16)) := by
  unfold branchOnBit
  simp only [branchIf, State.advance, State.jump, State.load_pc, beq_iff_eq]
  split <;> simp_all

end Sys2Proof.Machine
end

