-- ==== Sys2Proof/Laws/PerInstr.lean ====
section
/-! SUPPORT. Families of lemmas with one lemma for each constructor of `Instr`. -/

namespace Sys2Proof.Laws

/-- `EncodedLength`: a well-formed instruction is encoded in as many bytes as its LEN (R81, R84). -/
def EncodedLength.Statement (i : Instr) : Prop :=
  i.wellFormed = true → (encode i).length = i.len

theorem EncodedLength.adc (src : Source) : EncodedLength.Statement (.adc src) := by
  intro h
  cases src with
  | imm b => rfl
  | mem m => cases m <;> first | rfl | cases h

theorem EncodedLength.and (src : Source) : EncodedLength.Statement (.and src) := by
  intro h
  cases src with
  | imm b => rfl
  | mem m => cases m <;> first | rfl | cases h

theorem EncodedLength.asl (t : Target) : EncodedLength.Statement (.asl t) := by
  intro h
  cases t with
  | acc => rfl
  | mem m => cases m <;> first | rfl | cases h

theorem EncodedLength.bbr0 (z off : Byte) : EncodedLength.Statement (.bbr0 z off) := fun _ => rfl

theorem EncodedLength.bbr1 (z off : Byte) : EncodedLength.Statement (.bbr1 z off) := fun _ => rfl

theorem EncodedLength.bbr2 (z off : Byte) : EncodedLength.Statement (.bbr2 z off) := fun _ => rfl

theorem EncodedLength.bbr3 (z off : Byte) : EncodedLength.Statement (.bbr3 z off) := fun _ => rfl

theorem EncodedLength.bbr4 (z off : Byte) : EncodedLength.Statement (.bbr4 z off) := fun _ => rfl

theorem EncodedLength.bbr5 (z off : Byte) : EncodedLength.Statement (.bbr5 z off) := fun _ => rfl

theorem EncodedLength.bbr6 (z off : Byte) : EncodedLength.Statement (.bbr6 z off) := fun _ => rfl

theorem EncodedLength.bbr7 (z off : Byte) : EncodedLength.Statement (.bbr7 z off) := fun _ => rfl

theorem EncodedLength.bbs0 (z off : Byte) : EncodedLength.Statement (.bbs0 z off) := fun _ => rfl

theorem EncodedLength.bbs1 (z off : Byte) : EncodedLength.Statement (.bbs1 z off) := fun _ => rfl

theorem EncodedLength.bbs2 (z off : Byte) : EncodedLength.Statement (.bbs2 z off) := fun _ => rfl

theorem EncodedLength.bbs3 (z off : Byte) : EncodedLength.Statement (.bbs3 z off) := fun _ => rfl

theorem EncodedLength.bbs4 (z off : Byte) : EncodedLength.Statement (.bbs4 z off) := fun _ => rfl

theorem EncodedLength.bbs5 (z off : Byte) : EncodedLength.Statement (.bbs5 z off) := fun _ => rfl

theorem EncodedLength.bbs6 (z off : Byte) : EncodedLength.Statement (.bbs6 z off) := fun _ => rfl

theorem EncodedLength.bbs7 (z off : Byte) : EncodedLength.Statement (.bbs7 z off) := fun _ => rfl

theorem EncodedLength.bpl (off : Byte) : EncodedLength.Statement (.bpl off) := fun _ => rfl

theorem EncodedLength.bmi (off : Byte) : EncodedLength.Statement (.bmi off) := fun _ => rfl

theorem EncodedLength.bvc (off : Byte) : EncodedLength.Statement (.bvc off) := fun _ => rfl

theorem EncodedLength.bvs (off : Byte) : EncodedLength.Statement (.bvs off) := fun _ => rfl

theorem EncodedLength.bra (off : Byte) : EncodedLength.Statement (.bra off) := fun _ => rfl

theorem EncodedLength.bcc (off : Byte) : EncodedLength.Statement (.bcc off) := fun _ => rfl

theorem EncodedLength.bcs (off : Byte) : EncodedLength.Statement (.bcs off) := fun _ => rfl

theorem EncodedLength.bne (off : Byte) : EncodedLength.Statement (.bne off) := fun _ => rfl

theorem EncodedLength.beq (off : Byte) : EncodedLength.Statement (.beq off) := fun _ => rfl

theorem EncodedLength.bit (src : Source) : EncodedLength.Statement (.bit src) := by
  intro h
  cases src with
  | imm b => rfl
  | mem m => cases m <;> first | rfl | cases h

theorem EncodedLength.brk : EncodedLength.Statement (.brk) := fun _ => rfl

theorem EncodedLength.clc : EncodedLength.Statement (.clc) := fun _ => rfl

theorem EncodedLength.cld : EncodedLength.Statement (.cld) := fun _ => rfl

theorem EncodedLength.cli : EncodedLength.Statement (.cli) := fun _ => rfl

theorem EncodedLength.clv : EncodedLength.Statement (.clv) := fun _ => rfl

theorem EncodedLength.sec : EncodedLength.Statement (.sec) := fun _ => rfl

theorem EncodedLength.sed : EncodedLength.Statement (.sed) := fun _ => rfl

theorem EncodedLength.sei : EncodedLength.Statement (.sei) := fun _ => rfl

theorem EncodedLength.cmp (src : Source) : EncodedLength.Statement (.cmp src) := by
  intro h
  cases src with
  | imm b => rfl
  | mem m => cases m <;> first | rfl | cases h

theorem EncodedLength.cpx (src : Source) : EncodedLength.Statement (.cpx src) := by
  intro h
  cases src with
  | imm b => rfl
  | mem m => cases m <;> first | rfl | cases h

theorem EncodedLength.cpy (src : Source) : EncodedLength.Statement (.cpy src) := by
  intro h
  cases src with
  | imm b => rfl
  | mem m => cases m <;> first | rfl | cases h

theorem EncodedLength.dec (t : Target) : EncodedLength.Statement (.dec t) := by
  intro h
  cases t with
  | acc => rfl
  | mem m => cases m <;> first | rfl | cases h

theorem EncodedLength.dex : EncodedLength.Statement (.dex) := fun _ => rfl

theorem EncodedLength.dey : EncodedLength.Statement (.dey) := fun _ => rfl

theorem EncodedLength.eor (src : Source) : EncodedLength.Statement (.eor src) := by
  intro h
  cases src with
  | imm b => rfl
  | mem m => cases m <;> first | rfl | cases h

theorem EncodedLength.inc (t : Target) : EncodedLength.Statement (.inc t) := by
  intro h
  cases t with
  | acc => rfl
  | mem m => cases m <;> first | rfl | cases h

theorem EncodedLength.inx : EncodedLength.Statement (.inx) := fun _ => rfl

theorem EncodedLength.iny : EncodedLength.Statement (.iny) := fun _ => rfl

theorem EncodedLength.jmp (m : JumpMode) : EncodedLength.Statement (.jmp m) := by
  intro _
  cases m <;> rfl

theorem EncodedLength.jsr (a : Word) : EncodedLength.Statement (.jsr a) := fun _ => rfl

theorem EncodedLength.lda (src : Source) : EncodedLength.Statement (.lda src) := by
  intro h
  cases src with
  | imm b => rfl
  | mem m => cases m <;> first | rfl | cases h

theorem EncodedLength.ldx (src : Source) : EncodedLength.Statement (.ldx src) := by
  intro h
  cases src with
  | imm b => rfl
  | mem m => cases m <;> first | rfl | cases h

theorem EncodedLength.ldy (src : Source) : EncodedLength.Statement (.ldy src) := by
  intro h
  cases src with
  | imm b => rfl
  | mem m => cases m <;> first | rfl | cases h

theorem EncodedLength.lsr (t : Target) : EncodedLength.Statement (.lsr t) := by
  intro h
  cases t with
  | acc => rfl
  | mem m => cases m <;> first | rfl | cases h

theorem EncodedLength.nop : EncodedLength.Statement (.nop) := fun _ => rfl

theorem EncodedLength.nop1 (op : Byte) : EncodedLength.Statement (.nop1 op) := by
  intro h
  simp only [Instr.wellFormed] at h
  simp [encode, h, Instr.len]

theorem EncodedLength.nop2 (op b1 : Byte) : EncodedLength.Statement (.nop2 op b1) := by
  intro h
  simp only [Instr.wellFormed] at h
  simp [encode, h, Instr.len]

theorem EncodedLength.nop3 (op b1 b2 : Byte) : EncodedLength.Statement (.nop3 op b1 b2) := by
  intro h
  simp only [Instr.wellFormed] at h
  simp [encode, h, Instr.len]

theorem EncodedLength.ora (src : Source) : EncodedLength.Statement (.ora src) := by
  intro h
  cases src with
  | imm b => rfl
  | mem m => cases m <;> first | rfl | cases h

theorem EncodedLength.pha : EncodedLength.Statement (.pha) := fun _ => rfl

theorem EncodedLength.php : EncodedLength.Statement (.php) := fun _ => rfl

theorem EncodedLength.phx : EncodedLength.Statement (.phx) := fun _ => rfl

theorem EncodedLength.phy : EncodedLength.Statement (.phy) := fun _ => rfl

theorem EncodedLength.pla : EncodedLength.Statement (.pla) := fun _ => rfl

theorem EncodedLength.plp : EncodedLength.Statement (.plp) := fun _ => rfl

theorem EncodedLength.plx : EncodedLength.Statement (.plx) := fun _ => rfl

theorem EncodedLength.ply : EncodedLength.Statement (.ply) := fun _ => rfl

theorem EncodedLength.rmb0 (z : Byte) : EncodedLength.Statement (.rmb0 z) := fun _ => rfl

theorem EncodedLength.rmb1 (z : Byte) : EncodedLength.Statement (.rmb1 z) := fun _ => rfl

theorem EncodedLength.rmb2 (z : Byte) : EncodedLength.Statement (.rmb2 z) := fun _ => rfl

theorem EncodedLength.rmb3 (z : Byte) : EncodedLength.Statement (.rmb3 z) := fun _ => rfl

theorem EncodedLength.rmb4 (z : Byte) : EncodedLength.Statement (.rmb4 z) := fun _ => rfl

theorem EncodedLength.rmb5 (z : Byte) : EncodedLength.Statement (.rmb5 z) := fun _ => rfl

theorem EncodedLength.rmb6 (z : Byte) : EncodedLength.Statement (.rmb6 z) := fun _ => rfl

theorem EncodedLength.rmb7 (z : Byte) : EncodedLength.Statement (.rmb7 z) := fun _ => rfl

theorem EncodedLength.rol (t : Target) : EncodedLength.Statement (.rol t) := by
  intro h
  cases t with
  | acc => rfl
  | mem m => cases m <;> first | rfl | cases h

theorem EncodedLength.ror (t : Target) : EncodedLength.Statement (.ror t) := by
  intro h
  cases t with
  | acc => rfl
  | mem m => cases m <;> first | rfl | cases h

theorem EncodedLength.rti : EncodedLength.Statement (.rti) := fun _ => rfl

theorem EncodedLength.rts : EncodedLength.Statement (.rts) := fun _ => rfl

theorem EncodedLength.sbc (src : Source) : EncodedLength.Statement (.sbc src) := by
  intro h
  cases src with
  | imm b => rfl
  | mem m => cases m <;> first | rfl | cases h

theorem EncodedLength.smb0 (z : Byte) : EncodedLength.Statement (.smb0 z) := fun _ => rfl

theorem EncodedLength.smb1 (z : Byte) : EncodedLength.Statement (.smb1 z) := fun _ => rfl

theorem EncodedLength.smb2 (z : Byte) : EncodedLength.Statement (.smb2 z) := fun _ => rfl

theorem EncodedLength.smb3 (z : Byte) : EncodedLength.Statement (.smb3 z) := fun _ => rfl

theorem EncodedLength.smb4 (z : Byte) : EncodedLength.Statement (.smb4 z) := fun _ => rfl

theorem EncodedLength.smb5 (z : Byte) : EncodedLength.Statement (.smb5 z) := fun _ => rfl

theorem EncodedLength.smb6 (z : Byte) : EncodedLength.Statement (.smb6 z) := fun _ => rfl

theorem EncodedLength.smb7 (z : Byte) : EncodedLength.Statement (.smb7 z) := fun _ => rfl

theorem EncodedLength.sta (m : AddrMode) : EncodedLength.Statement (.sta m) := by
  intro h
  cases m <;> first | rfl | cases h

theorem EncodedLength.stp : EncodedLength.Statement (.stp) := fun _ => rfl

theorem EncodedLength.stx (m : AddrMode) : EncodedLength.Statement (.stx m) := by
  intro h
  cases m <;> first | rfl | cases h

theorem EncodedLength.sty (m : AddrMode) : EncodedLength.Statement (.sty m) := by
  intro h
  cases m <;> first | rfl | cases h

theorem EncodedLength.stz (m : AddrMode) : EncodedLength.Statement (.stz m) := by
  intro h
  cases m <;> first | rfl | cases h

theorem EncodedLength.tax : EncodedLength.Statement (.tax) := fun _ => rfl

theorem EncodedLength.tay : EncodedLength.Statement (.tay) := fun _ => rfl

theorem EncodedLength.tsx : EncodedLength.Statement (.tsx) := fun _ => rfl

theorem EncodedLength.txa : EncodedLength.Statement (.txa) := fun _ => rfl

theorem EncodedLength.tya : EncodedLength.Statement (.tya) := fun _ => rfl

theorem EncodedLength.txs : EncodedLength.Statement (.txs) := fun _ => rfl

theorem EncodedLength.trb (m : AddrMode) : EncodedLength.Statement (.trb m) := by
  intro h
  cases m <;> first | rfl | cases h

theorem EncodedLength.tsb (m : AddrMode) : EncodedLength.Statement (.tsb m) := by
  intro h
  cases m <;> first | rfl | cases h

theorem EncodedLength.wai : EncodedLength.Statement (.wai) := fun _ => rfl

end Sys2Proof.Laws
end

