-- ==== Sys2Proof/Laws/Step.lean ====
section
/-! SUPPORT. What one step can do, said once: the cases of a step that answers a next state, and of one that is refused;
what sampling the inputs leaves in each field; and the fetch. -/

namespace Sys2Proof.Machine

/-! ### Sampling the inputs -/

@[simp] theorem State.sampled_a (s : State) : s.sampled.a = s.a := rfl
@[simp] theorem State.sampled_x (s : State) : s.sampled.x = s.x := rfl
@[simp] theorem State.sampled_y (s : State) : s.sampled.y = s.y := rfl
@[simp] theorem State.sampled_sp (s : State) : s.sampled.sp = s.sp := rfl
@[simp] theorem State.sampled_pc (s : State) : s.sampled.pc = s.pc := rfl
@[simp] theorem State.sampled_n (s : State) : s.sampled.n = s.n := rfl
@[simp] theorem State.sampled_v (s : State) : s.sampled.v = s.v := rfl
@[simp] theorem State.sampled_d (s : State) : s.sampled.d = s.d := rfl
@[simp] theorem State.sampled_i (s : State) : s.sampled.i = s.i := rfl
@[simp] theorem State.sampled_z (s : State) : s.sampled.z = s.z := rfl
@[simp] theorem State.sampled_c (s : State) : s.sampled.c = s.c := rfl
@[simp] theorem State.sampled_run (s : State) : s.sampled.run = s.run := rfl
@[simp] theorem State.sampled_nmiPending (s : State) : s.sampled.nmiPending = (s.nmiPending || s.lines.nmiEdge) := rfl
@[simp] theorem State.sampled_mem (s : State) : s.sampled.mem = s.mem := rfl
@[simp] theorem State.sampled_regions (s : State) : s.sampled.regions = s.regions := rfl
@[simp] theorem State.sampled_inputs (s : State) : s.sampled.inputs = s.inputs.tail := rfl
@[simp] theorem State.sampled_ioLog (s : State) : s.sampled.ioLog = s.ioLog := rfl
@[simp] theorem State.sampled_draws (s : State) : s.sampled.draws = s.draws := rfl
@[simp] theorem State.sampled_cycles (s : State) : s.sampled.cycles = s.cycles := rfl

@[simp] theorem State.sampled_region (s : State) (b : Word) : s.sampled.region b = s.region b := rfl
@[simp] theorem State.sampled_peek (s : State) (b : Word) : s.sampled.peek b = s.peek b := rfl

/-! ### The fetch -/

/-- A byte is fetched from RAM or ROM, and it is the byte stored there. -/
theorem State.fetchByte_ok {b : Word} {s : State} {q : Byte} (h : s.fetchByte b = .ok q) :
    (s.region b = .ram ∨ s.region b = .rom) ∧ q = s.peek b := by
  unfold State.fetchByte at h
  split at h
  · next hr => exact ⟨.inl hr, by cases h; rfl⟩
  · next hr => exact ⟨.inr hr, by cases h; rfl⟩
  · cases h
  · cases h

/-- A byte of RAM or ROM is fetched as it stands. -/
theorem State.fetchByte_of_memory {b : Word} {s : State} (h : s.region b = .ram ∨ s.region b = .rom) :
    s.fetchByte b = .ok (s.peek b) := by
  unfold State.fetchByte
  rcases h with h | h <;> rw [h]

/-- A fetch that is refused names the kind of region it met. -/
theorem State.fetchByte_error {b : Word} {s : State} {r : Refusal} (h : s.fetchByte b = .error r) :
    (s.region b = .io ∧ r = .fetchFromIo) ∨ (s.region b = .unmapped ∧ r = .fetchFromUnmapped) := by
  unfold State.fetchByte at h
  split at h
  · cases h
  · cases h
  · next hr => exact .inl ⟨hr, by cases h; rfl⟩
  · next hr => exact .inr ⟨hr, by cases h; rfl⟩

/-- Bytes that cannot be fetched: the first that does not stand in RAM or ROM decides the refusal. -/
theorem State.fetchBytes_error {s : State} {r : Refusal} (n : Nat) (b : Word) (h : s.fetchBytes n b = .error r) :
    ∃ k : Nat, k < n ∧
      (∀ j : Nat, j < k → s.region (b + BitVec.ofNat 16 j) = .ram ∨ s.region (b + BitVec.ofNat 16 j) = .rom) ∧
      s.fetchByte (b + BitVec.ofNat 16 k) = .error r := by
  induction n generalizing b with
  | zero => cases h
  | succ n ih =>
    have shift : ∀ j : Nat, b + BitVec.ofNat 16 (j + 1) = b + 1 + BitVec.ofNat 16 j := fun j => by
      rw [BitVec.add_assoc, Nat.add_comm, BitVec.ofNat_add]
      rfl
    unfold State.fetchBytes at h
    split at h
    · next hb =>
      cases h
      exact ⟨0, by omega, fun j hj => absurd hj (Nat.not_lt_zero j), by simpa using hb⟩
    · next q hb =>
      split at h
      · next hbs =>
        cases h
        obtain ⟨k, hk, hm, he⟩ := ih (b + 1) hbs
        refine ⟨k + 1, by omega, fun j hj => ?_, by rw [shift]; exact he⟩
        cases j with
        | zero => simpa using (State.fetchByte_ok hb).1
        | succ j => rw [shift]; exact hm j (by omega)
      · cases h

/-- The opcode length is never 0. -/
theorem opcodeLength_pos (op : Byte) : 0 < opcodeLength op := by
  revert op
  decide

/-- An instruction that cannot be fetched: the first of its own bytes that does not stand in RAM or ROM decides the
refusal. -/
theorem State.fetch_error {s : State} {r : Refusal} (h : s.fetch = .error r) :
    ∃ k : Nat, k < opcodeLength (s.peek s.pc) ∧
      (∀ j : Nat, j < k → s.region (s.pc + BitVec.ofNat 16 j) = .ram ∨ s.region (s.pc + BitVec.ofNat 16 j) = .rom) ∧
      s.fetchByte (s.pc + BitVec.ofNat 16 k) = .error r := by
  unfold State.fetch at h
  split at h
  · next hb =>
    cases h
    exact ⟨0, opcodeLength_pos _, fun j hj => absurd hj (Nat.not_lt_zero j), by simpa using hb⟩
  · next op hb =>
    split at h
    · next hbs =>
      cases h
      obtain ⟨hr, rfl⟩ := State.fetchByte_ok hb
      have hall : s.fetchBytes (opcodeLength (s.peek s.pc)) s.pc = .error r := by
        obtain ⟨n, hn⟩ : ∃ n, opcodeLength (s.peek s.pc) = n + 1 :=
          Nat.exists_eq_succ_of_ne_zero (Nat.pos_iff_ne_zero.mp (opcodeLength_pos _))
        rw [hn, Nat.add_sub_cancel] at hbs
        rw [hn]
        unfold State.fetchBytes
        simp only [hb, hbs]
      exact State.fetchBytes_error _ _ hall
    · cases h

/-- The fetch depends on PC, the memory and the memory map alone. -/
theorem State.fetch_congr {s t : State} (hp : t.pc = s.pc) (hm : t.mem = s.mem) (hr : t.regions = s.regions) :
    t.fetch = s.fetch := by
  have hb : ∀ b : Word, t.fetchByte b = s.fetchByte b := fun b => by
    simp only [State.fetchByte, State.region, State.peek, hm, hr]
  have hbs : ∀ (k : Nat) (b : Word), t.fetchBytes k b = s.fetchBytes k b := by
    intro k
    induction k with
    | zero => intro b; rfl
    | succ k ih => intro b; simp only [State.fetchBytes, hb, ih]
  simp only [State.fetch, hb, hbs, hp]

/-! ### The cases of a step -/

@[simp] theorem tickOutcome_next (k : Nat) (s : State) : tickOutcome k (.next s) = .next (s.tick k) := rfl

/-- An executed instruction answers what `exec` answers, the cycle counter apart. -/
theorem executeOne_cases {s t : State} (h : executeOne s = .next t) :
    ∃ i u, s.fetch = .ok i ∧ exec i s = .next u ∧ t = u.tick (instrCycles i s) := by
  unfold executeOne at h
  split at h
  · cases h
  · next i hf =>
    cases hu : exec i s with
    | next u => rw [hu] at h; exact ⟨i, u, hf, hu, by cases h; rfl⟩
    | fault f => rw [hu] at h; cases h
    | refused r => rw [hu] at h; cases h

/-- All that a step which answers a next state can do: the reset sequence; nothing, while stopped; the NMI sequence; the
IRQ sequence; the end of a wait, or more waiting; or one instruction. -/
theorem step_cases {s t : State} (h : step s = .next t) :
    (s.lines.resb = true ∧ t = s.sampled.takeReset.tick sequenceCycles) ∨
    (s.lines.resb = false ∧ s.run = .stopped ∧ t = s.sampled) ∨
    (s.lines.resb = false ∧ s.run ≠ .stopped ∧ s.sampled.nmiPending = true ∧ t = s.sampled.takeNmi) ∨
    (s.lines.resb = false ∧ s.run ≠ .stopped ∧ s.sampled.nmiPending = false ∧
      s.lines.irqLow = true ∧ s.i = false ∧ t = s.sampled.takeIrq) ∨
    (s.lines.resb = false ∧ s.run = .waiting ∧ s.sampled.nmiPending = false ∧
      s.lines.irqLow = true ∧ s.i = true ∧ t = s.sampled.setRun .running) ∨
    (s.lines.resb = false ∧ s.run = .waiting ∧ s.sampled.nmiPending = false ∧
      s.lines.irqLow = false ∧ t = s.sampled) ∨
    (s.lines.resb = false ∧ s.run = .running ∧ s.sampled.nmiPending = false ∧
      ((s.lines.irqLow && !s.i) = false) ∧ executeOne s.sampled = .next t) := by
  unfold step stepAtBoundary at h
  simp only [State.sampled_i, State.sampled_run] at h
  cases hr : s.lines.resb <;> simp only [hr, if_true, Bool.false_eq_true, if_false] at h
  · cases hrun : s.run <;> simp only [hrun, reduceCtorEq, if_false, if_true] at h
    all_goals first
      | (cases h; exact .inr (.inl ⟨rfl, rfl, rfl⟩))
      | skip
    all_goals
      cases hn : s.sampled.nmiPending <;> simp only [hn, Bool.false_eq_true, if_false, if_true] at h
    all_goals cases hl : s.lines.irqLow <;> cases hi : s.i <;> cases t <;> simp_all
  · cases h; exact .inl ⟨rfl, rfl⟩

/-- A refused step refuses the fetch: nothing else in the machine refuses. -/
theorem step_refused_cases {s : State} {r : Refusal} (h : step s = .refused r) :
    executeOne s.sampled = .refused r := by
  unfold step stepAtBoundary at h
  simp only at h
  repeat (split at h; · cases h)
  exact h

end Sys2Proof.Machine
end

