-- ==== Sys2Proof/Tests/Slice0.lean ====
section
/-! SUPPORT. The model's own tests: ill-formed terms that the check refuses, the decoding of words written out from R105,
single steps from the vectors of 95_test_vectors.md (named there by their id), and for each obligation with hypotheses a
state that meets them. -/

open Sys2Proof Sys2Proof.Machine

namespace Sys2Proof.Tests

/-! ### Helpers -/

/-- The bytes decode to exactly this instruction. -/
def reads (bytes : List Byte) (i : Instr) : Bool :=
  match decode bytes with
  | .ok (j, rest) => decide (j = i) && rest.isEmpty
  | .error _ => false

/-- The outcome is a next state of which `p` holds. -/
def endsIn (o : Host.Outcome State Fault Refusal) (p : State → Bool) : Bool :=
  match o with
  | .next t => p t
  | .fault _ => false
  | .refused _ => false

/-- The outcome is this refusal. -/
def refusedAs (o : Host.Outcome State Fault Refusal) (r : Refusal) : Bool :=
  match o with
  | .next _ => false
  | .fault _ => false
  | .refused q => decide (q = r)

/-- The default start state of section 2 of 95_test_vectors.md, with this memory. -/
def start (mem : Memory) : State :=
  { State.reset with sp := 0xFF#8, pc := 0x0200#16, i := false, mem := mem }

/-- The six flags in the order N V D I Z C. -/
def flags (t : State) : BitVec 6 :=
  BitVec.ofBool t.n ++ BitVec.ofBool t.v ++ BitVec.ofBool t.d ++ BitVec.ofBool t.i ++ BitVec.ofBool t.z ++
    BitVec.ofBool t.c

/-! ### Ill-formed terms (R105, R83) -/

/-- A mode that R105 does not list for the eight-way group: ADC and STA with `zp,Y`. -/
theorem test_ill_formed_alu : (Instr.adc (.mem (.zpY 0x12#8))).wellFormed = false ∧
    (Instr.and (.mem (.zpY 0x12#8))).wellFormed = false ∧ (Instr.cmp (.mem (.zpY 0x12#8))).wellFormed = false ∧
    (Instr.eor (.mem (.zpY 0x12#8))).wellFormed = false ∧ (Instr.lda (.mem (.zpY 0x12#8))).wellFormed = false ∧
    (Instr.ora (.mem (.zpY 0x12#8))).wellFormed = false ∧ (Instr.sbc (.mem (.zpY 0x12#8))).wellFormed = false ∧
    (Instr.sta (.zpY 0x12#8)).wellFormed = false := by decide

/-- BIT, LDY and STZ have no `abs,Y`. -/
theorem test_ill_formed_by_x : (Instr.bit (.mem (.absY 0x1234#16))).wellFormed = false ∧
    (Instr.ldy (.mem (.absY 0x1234#16))).wellFormed = false ∧ (Instr.stz (.absY 0x1234#16)).wellFormed = false := by
  decide

/-- LDX has no `abs,X`. -/
theorem test_ill_formed_ldx : (Instr.ldx (.mem (.absX 0x1234#16))).wellFormed = false := by decide

/-- CPX and CPY have no `zp,X`. -/
theorem test_ill_formed_index_compares : (Instr.cpx (.mem (.zpX 0x12#8))).wellFormed = false ∧
    (Instr.cpy (.mem (.zpX 0x12#8))).wellFormed = false := by decide

/-- The read-modify-write instructions have no `(zp)`. -/
theorem test_ill_formed_targets : (Instr.asl (.mem (.ind 0x12#8))).wellFormed = false ∧
    (Instr.lsr (.mem (.ind 0x12#8))).wellFormed = false ∧ (Instr.rol (.mem (.ind 0x12#8))).wellFormed = false ∧
    (Instr.ror (.mem (.ind 0x12#8))).wellFormed = false ∧ (Instr.inc (.mem (.ind 0x12#8))).wellFormed = false ∧
    (Instr.dec (.mem (.ind 0x12#8))).wellFormed = false := by decide

/-- STX has no `zp,X`, STY no `zp,Y`. -/
theorem test_ill_formed_index_stores : (Instr.stx (.zpX 0x12#8)).wellFormed = false ∧
    (Instr.sty (.zpY 0x12#8)).wellFormed = false := by decide

/-- TRB and TSB have no `abs,X`. -/
theorem test_ill_formed_test_bits : (Instr.trb (.absX 0x1234#16)).wellFormed = false ∧
    (Instr.tsb (.absX 0x1234#16)).wellFormed = false := by decide

/-- Opcode bytes that are no invalid opcode of that length: NOP itself, WAI, STP, BRK, JMP. -/
theorem test_ill_formed_invalid_opcodes : (Instr.nop1 0xEA#8).wellFormed = false ∧
    (Instr.nop1 0xCB#8).wellFormed = false ∧ (Instr.nop1 0xDB#8).wellFormed = false ∧
    (Instr.nop2 0x00#8 0x12#8).wellFormed = false ∧ (Instr.nop3 0x4C#8 0x34#8 0x12#8).wellFormed = false := by decide

/-! ### Decoding -/

/-- ADC: words of R105, operand `$12` or `$1234` as in section 1 of 95_test_vectors.md. -/
theorem test_decode_adc :
    reads [0x69#8, 0x12#8] (.adc (.imm 0x12#8)) = true ∧
    reads [0x65#8, 0x12#8] (.adc (.mem (.zp 0x12#8))) = true ∧
    reads [0x75#8, 0x12#8] (.adc (.mem (.zpX 0x12#8))) = true ∧
    reads [0x6D#8, 0x34#8, 0x12#8] (.adc (.mem (.abs 0x1234#16))) = true ∧
    reads [0x7D#8, 0x34#8, 0x12#8] (.adc (.mem (.absX 0x1234#16))) = true ∧
    reads [0x79#8, 0x34#8, 0x12#8] (.adc (.mem (.absY 0x1234#16))) = true ∧
    reads [0x61#8, 0x12#8] (.adc (.mem (.indX 0x12#8))) = true ∧
    reads [0x71#8, 0x12#8] (.adc (.mem (.indY 0x12#8))) = true ∧
    reads [0x72#8, 0x12#8] (.adc (.mem (.ind 0x12#8))) = true := by decide

/-- AND, BIT, EOR, ORA: words of R105, operand `$12` or `$1234` as in section 1 of 95_test_vectors.md. -/
theorem test_decode_logic :
    reads [0x29#8, 0x12#8] (.and (.imm 0x12#8)) = true ∧
    reads [0x32#8, 0x12#8] (.and (.mem (.ind 0x12#8))) = true ∧
    reads [0x89#8, 0x12#8] (.bit (.imm 0x12#8)) = true ∧
    reads [0x24#8, 0x12#8] (.bit (.mem (.zp 0x12#8))) = true ∧
    reads [0x34#8, 0x12#8] (.bit (.mem (.zpX 0x12#8))) = true ∧
    reads [0x2C#8, 0x34#8, 0x12#8] (.bit (.mem (.abs 0x1234#16))) = true ∧
    reads [0x3C#8, 0x34#8, 0x12#8] (.bit (.mem (.absX 0x1234#16))) = true ∧
    reads [0x49#8, 0x12#8] (.eor (.imm 0x12#8)) = true ∧
    reads [0x51#8, 0x12#8] (.eor (.mem (.indY 0x12#8))) = true ∧
    reads [0x09#8, 0x12#8] (.ora (.imm 0x12#8)) = true ∧
    reads [0x1D#8, 0x34#8, 0x12#8] (.ora (.mem (.absX 0x1234#16))) = true := by decide

/-- ASL, LSR, ROL, ROR: words of R105, operand `$12` or `$1234` as in section 1 of 95_test_vectors.md. -/
theorem test_decode_shifts :
    reads [0x0A#8] (.asl .acc) = true ∧
    reads [0x06#8, 0x12#8] (.asl (.mem (.zp 0x12#8))) = true ∧
    reads [0x16#8, 0x12#8] (.asl (.mem (.zpX 0x12#8))) = true ∧
    reads [0x0E#8, 0x34#8, 0x12#8] (.asl (.mem (.abs 0x1234#16))) = true ∧
    reads [0x1E#8, 0x34#8, 0x12#8] (.asl (.mem (.absX 0x1234#16))) = true ∧
    reads [0x4A#8] (.lsr .acc) = true ∧
    reads [0x5E#8, 0x34#8, 0x12#8] (.lsr (.mem (.absX 0x1234#16))) = true ∧
    reads [0x2A#8] (.rol .acc) = true ∧
    reads [0x36#8, 0x12#8] (.rol (.mem (.zpX 0x12#8))) = true ∧
    reads [0x6A#8] (.ror .acc) = true ∧
    reads [0x6E#8, 0x34#8, 0x12#8] (.ror (.mem (.abs 0x1234#16))) = true := by decide

/-- BBR n: words of R105, operand `$12` or `$1234` as in section 1 of 95_test_vectors.md. -/
theorem test_decode_bbr :
    reads [0x0F#8, 0x12#8, 0x34#8] (.bbr0 0x12#8 0x34#8) = true ∧
    reads [0x1F#8, 0x12#8, 0x34#8] (.bbr1 0x12#8 0x34#8) = true ∧
    reads [0x2F#8, 0x12#8, 0x34#8] (.bbr2 0x12#8 0x34#8) = true ∧
    reads [0x3F#8, 0x12#8, 0x34#8] (.bbr3 0x12#8 0x34#8) = true ∧
    reads [0x4F#8, 0x12#8, 0x34#8] (.bbr4 0x12#8 0x34#8) = true ∧
    reads [0x5F#8, 0x12#8, 0x34#8] (.bbr5 0x12#8 0x34#8) = true ∧
    reads [0x6F#8, 0x12#8, 0x34#8] (.bbr6 0x12#8 0x34#8) = true ∧
    reads [0x7F#8, 0x12#8, 0x34#8] (.bbr7 0x12#8 0x34#8) = true := by decide

/-- BBS n: words of R105, operand `$12` or `$1234` as in section 1 of 95_test_vectors.md. -/
theorem test_decode_bbs :
    reads [0x8F#8, 0x12#8, 0x34#8] (.bbs0 0x12#8 0x34#8) = true ∧
    reads [0x9F#8, 0x12#8, 0x34#8] (.bbs1 0x12#8 0x34#8) = true ∧
    reads [0xAF#8, 0x12#8, 0x34#8] (.bbs2 0x12#8 0x34#8) = true ∧
    reads [0xBF#8, 0x12#8, 0x34#8] (.bbs3 0x12#8 0x34#8) = true ∧
    reads [0xCF#8, 0x12#8, 0x34#8] (.bbs4 0x12#8 0x34#8) = true ∧
    reads [0xDF#8, 0x12#8, 0x34#8] (.bbs5 0x12#8 0x34#8) = true ∧
    reads [0xEF#8, 0x12#8, 0x34#8] (.bbs6 0x12#8 0x34#8) = true ∧
    reads [0xFF#8, 0x12#8, 0x34#8] (.bbs7 0x12#8 0x34#8) = true := by decide

/-- BPL, BMI, BVC, BVS, BRA, BCC, BCS, BNE, BEQ: words of R105, operand `$12` or `$1234` as in section 1 of 95_test_vectors.md. -/
theorem test_decode_branches :
    reads [0x10#8, 0x12#8] (.bpl 0x12#8) = true ∧
    reads [0x30#8, 0x12#8] (.bmi 0x12#8) = true ∧
    reads [0x50#8, 0x12#8] (.bvc 0x12#8) = true ∧
    reads [0x70#8, 0x12#8] (.bvs 0x12#8) = true ∧
    reads [0x80#8, 0x12#8] (.bra 0x12#8) = true ∧
    reads [0x90#8, 0x12#8] (.bcc 0x12#8) = true ∧
    reads [0xB0#8, 0x12#8] (.bcs 0x12#8) = true ∧
    reads [0xD0#8, 0x12#8] (.bne 0x12#8) = true ∧
    reads [0xF0#8, 0x12#8] (.beq 0x12#8) = true := by decide

/-- BRK, JMP, JSR, RTI, RTS: words of R105, operand `$12` or `$1234` as in section 1 of 95_test_vectors.md. -/
theorem test_decode_jumps :
    reads [0x00#8] (.brk) = true ∧
    reads [0x4C#8, 0x34#8, 0x12#8] (.jmp (.abs 0x1234#16)) = true ∧
    reads [0x6C#8, 0x34#8, 0x12#8] (.jmp (.ind 0x1234#16)) = true ∧
    reads [0x7C#8, 0x34#8, 0x12#8] (.jmp (.indX 0x1234#16)) = true ∧
    reads [0x20#8, 0x34#8, 0x12#8] (.jsr 0x1234#16) = true ∧
    reads [0x40#8] (.rti) = true ∧
    reads [0x60#8] (.rts) = true := by decide

/-- CLC, CLD, CLI, CLV, SEC, SED, SEI: words of R105, operand `$12` or `$1234` as in section 1 of 95_test_vectors.md. -/
theorem test_decode_flags :
    reads [0x18#8] (.clc) = true ∧
    reads [0xD8#8] (.cld) = true ∧
    reads [0x58#8] (.cli) = true ∧
    reads [0xB8#8] (.clv) = true ∧
    reads [0x38#8] (.sec) = true ∧
    reads [0xF8#8] (.sed) = true ∧
    reads [0x78#8] (.sei) = true := by decide

/-- CMP, CPX, CPY: words of R105, operand `$12` or `$1234` as in section 1 of 95_test_vectors.md. -/
theorem test_decode_compares :
    reads [0xC9#8, 0x12#8] (.cmp (.imm 0x12#8)) = true ∧
    reads [0xD9#8, 0x34#8, 0x12#8] (.cmp (.mem (.absY 0x1234#16))) = true ∧
    reads [0xE0#8, 0x12#8] (.cpx (.imm 0x12#8)) = true ∧
    reads [0xE4#8, 0x12#8] (.cpx (.mem (.zp 0x12#8))) = true ∧
    reads [0xC0#8, 0x12#8] (.cpy (.imm 0x12#8)) = true ∧
    reads [0xCC#8, 0x34#8, 0x12#8] (.cpy (.mem (.abs 0x1234#16))) = true := by decide

/-- DEC, DEX, DEY, INC, INX, INY: words of R105, operand `$12` or `$1234` as in section 1 of 95_test_vectors.md. -/
theorem test_decode_counters :
    reads [0x3A#8] (.dec .acc) = true ∧
    reads [0xDE#8, 0x34#8, 0x12#8] (.dec (.mem (.absX 0x1234#16))) = true ∧
    reads [0xCA#8] (.dex) = true ∧
    reads [0x88#8] (.dey) = true ∧
    reads [0x1A#8] (.inc .acc) = true ∧
    reads [0xF6#8, 0x12#8] (.inc (.mem (.zpX 0x12#8))) = true ∧
    reads [0xE8#8] (.inx) = true ∧
    reads [0xC8#8] (.iny) = true := by decide

/-- LDA, LDX, LDY: words of R105, operand `$12` or `$1234` as in section 1 of 95_test_vectors.md. -/
theorem test_decode_loads :
    reads [0xA9#8, 0x12#8] (.lda (.imm 0x12#8)) = true ∧
    reads [0xA1#8, 0x12#8] (.lda (.mem (.indX 0x12#8))) = true ∧
    reads [0xA2#8, 0x12#8] (.ldx (.imm 0x12#8)) = true ∧
    reads [0xA6#8, 0x12#8] (.ldx (.mem (.zp 0x12#8))) = true ∧
    reads [0xB6#8, 0x12#8] (.ldx (.mem (.zpY 0x12#8))) = true ∧
    reads [0xAE#8, 0x34#8, 0x12#8] (.ldx (.mem (.abs 0x1234#16))) = true ∧
    reads [0xBE#8, 0x34#8, 0x12#8] (.ldx (.mem (.absY 0x1234#16))) = true ∧
    reads [0xA0#8, 0x12#8] (.ldy (.imm 0x12#8)) = true ∧
    reads [0xBC#8, 0x34#8, 0x12#8] (.ldy (.mem (.absX 0x1234#16))) = true := by decide

/-- NOP, WAI, STP (R105) and invalid opcodes of each length (R216 to R218). -/
theorem test_decode_nop_wai_stp :
    reads [0xEA#8] (.nop) = true ∧
    reads [0xDB#8] (.stp) = true ∧
    reads [0xCB#8] (.wai) = true ∧
    reads [0x03#8] (.nop1 0x03#8) = true ∧
    reads [0xFB#8] (.nop1 0xFB#8) = true ∧
    reads [0x02#8, 0x12#8] (.nop2 0x02#8 0x12#8) = true ∧
    reads [0xF4#8, 0x12#8] (.nop2 0xF4#8 0x12#8) = true ∧
    reads [0x5C#8, 0x34#8, 0x12#8] (.nop3 0x5C#8 0x34#8 0x12#8) = true ∧
    reads [0xFC#8, 0x34#8, 0x12#8] (.nop3 0xFC#8 0x34#8 0x12#8) = true := by decide

/-- PHA, PHP, PHX, PHY, PLA, PLP, PLX, PLY: words of R105, operand `$12` or `$1234` as in section 1 of 95_test_vectors.md. -/
theorem test_decode_stack :
    reads [0x48#8] (.pha) = true ∧
    reads [0x08#8] (.php) = true ∧
    reads [0xDA#8] (.phx) = true ∧
    reads [0x5A#8] (.phy) = true ∧
    reads [0x68#8] (.pla) = true ∧
    reads [0x28#8] (.plp) = true ∧
    reads [0xFA#8] (.plx) = true ∧
    reads [0x7A#8] (.ply) = true := by decide

/-- RMB n: words of R105, operand `$12` or `$1234` as in section 1 of 95_test_vectors.md. -/
theorem test_decode_rmb :
    reads [0x07#8, 0x12#8] (.rmb0 0x12#8) = true ∧
    reads [0x17#8, 0x12#8] (.rmb1 0x12#8) = true ∧
    reads [0x27#8, 0x12#8] (.rmb2 0x12#8) = true ∧
    reads [0x37#8, 0x12#8] (.rmb3 0x12#8) = true ∧
    reads [0x47#8, 0x12#8] (.rmb4 0x12#8) = true ∧
    reads [0x57#8, 0x12#8] (.rmb5 0x12#8) = true ∧
    reads [0x67#8, 0x12#8] (.rmb6 0x12#8) = true ∧
    reads [0x77#8, 0x12#8] (.rmb7 0x12#8) = true := by decide

/-- SBC: words of R105, operand `$12` or `$1234` as in section 1 of 95_test_vectors.md. -/
theorem test_decode_sbc :
    reads [0xE9#8, 0x12#8] (.sbc (.imm 0x12#8)) = true ∧
    reads [0xF5#8, 0x12#8] (.sbc (.mem (.zpX 0x12#8))) = true := by decide

/-- SMB n: words of R105, operand `$12` or `$1234` as in section 1 of 95_test_vectors.md. -/
theorem test_decode_smb :
    reads [0x87#8, 0x12#8] (.smb0 0x12#8) = true ∧
    reads [0x97#8, 0x12#8] (.smb1 0x12#8) = true ∧
    reads [0xA7#8, 0x12#8] (.smb2 0x12#8) = true ∧
    reads [0xB7#8, 0x12#8] (.smb3 0x12#8) = true ∧
    reads [0xC7#8, 0x12#8] (.smb4 0x12#8) = true ∧
    reads [0xD7#8, 0x12#8] (.smb5 0x12#8) = true ∧
    reads [0xE7#8, 0x12#8] (.smb6 0x12#8) = true ∧
    reads [0xF7#8, 0x12#8] (.smb7 0x12#8) = true := by decide

/-- STA, STX, STY, STZ: words of R105, operand `$12` or `$1234` as in section 1 of 95_test_vectors.md. -/
theorem test_decode_stores :
    reads [0x85#8, 0x12#8] (.sta (.zp 0x12#8)) = true ∧
    reads [0x95#8, 0x12#8] (.sta (.zpX 0x12#8)) = true ∧
    reads [0x8D#8, 0x34#8, 0x12#8] (.sta (.abs 0x1234#16)) = true ∧
    reads [0x9D#8, 0x34#8, 0x12#8] (.sta (.absX 0x1234#16)) = true ∧
    reads [0x99#8, 0x34#8, 0x12#8] (.sta (.absY 0x1234#16)) = true ∧
    reads [0x81#8, 0x12#8] (.sta (.indX 0x12#8)) = true ∧
    reads [0x91#8, 0x12#8] (.sta (.indY 0x12#8)) = true ∧
    reads [0x92#8, 0x12#8] (.sta (.ind 0x12#8)) = true ∧
    reads [0x86#8, 0x12#8] (.stx (.zp 0x12#8)) = true ∧
    reads [0x96#8, 0x12#8] (.stx (.zpY 0x12#8)) = true ∧
    reads [0x8E#8, 0x34#8, 0x12#8] (.stx (.abs 0x1234#16)) = true ∧
    reads [0x84#8, 0x12#8] (.sty (.zp 0x12#8)) = true ∧
    reads [0x94#8, 0x12#8] (.sty (.zpX 0x12#8)) = true ∧
    reads [0x8C#8, 0x34#8, 0x12#8] (.sty (.abs 0x1234#16)) = true ∧
    reads [0x64#8, 0x12#8] (.stz (.zp 0x12#8)) = true ∧
    reads [0x74#8, 0x12#8] (.stz (.zpX 0x12#8)) = true ∧
    reads [0x9C#8, 0x34#8, 0x12#8] (.stz (.abs 0x1234#16)) = true ∧
    reads [0x9E#8, 0x34#8, 0x12#8] (.stz (.absX 0x1234#16)) = true := by decide

/-- TAX, TAY, TSX, TXA, TYA, TXS: words of R105, operand `$12` or `$1234` as in section 1 of 95_test_vectors.md. -/
theorem test_decode_transfers :
    reads [0xAA#8] (.tax) = true ∧
    reads [0xA8#8] (.tay) = true ∧
    reads [0xBA#8] (.tsx) = true ∧
    reads [0x8A#8] (.txa) = true ∧
    reads [0x98#8] (.tya) = true ∧
    reads [0x9A#8] (.txs) = true := by decide

/-- TRB, TSB: words of R105, operand `$12` or `$1234` as in section 1 of 95_test_vectors.md. -/
theorem test_decode_trb_tsb :
    reads [0x14#8, 0x12#8] (.trb (.zp 0x12#8)) = true ∧
    reads [0x1C#8, 0x34#8, 0x12#8] (.trb (.abs 0x1234#16)) = true ∧
    reads [0x04#8, 0x12#8] (.tsb (.zp 0x12#8)) = true ∧
    reads [0x0C#8, 0x34#8, 0x12#8] (.tsb (.abs 0x1234#16)) = true := by decide

/-- An instruction whose bytes are missing is refused by name, and the bytes after an instruction are left. -/
theorem test_decode_missing_bytes : decode [] = .error .noBytes ∧
    decode [0x69#8] = .error (.missingOperandBytes 0x69#8) ∧
    decode [0x0F#8, 0x12#8] = .error (.missingOperandBytes 0x0F#8) ∧
    decode [0xEA#8, 0x69#8] = .ok (.nop, [0x69#8]) := by decide

/-! ### Single steps: the vectors of section 2 of 95_test_vectors.md -/

/-- A19: ADC ($FF). (zp) pointer at $FF wraps to $00. -/
theorem test_adc_A19 :
    endsIn (step { start [(0x0000, 0x12#8), (0x00FF, 0x34#8), (0x0200, 0x72#8), (0x0201, 0xFF#8), (0x1234, 0x0E#8)]
      with
      a := 0x01#8 }) (fun t => t.a == 0x0F#8 && t.pc == 0x0202#16 && flags t == 0b000000#6) = true := by decide

/-- AD1: ADC #$46. AddDecimal($58,$46,1); N and Z from the decimal result. -/
theorem test_adc_AD1 :
    endsIn (step { start [(0x0200, 0x69#8), (0x0201, 0x46#8)] with
      a := 0x58#8, d := true, c := true }) (fun t => t.a == 0x05#8 && t.pc == 0x0202#16 && t.n == false && t.d ==
      true && t.i == false && t.z == false && t.c == true) = true := by decide

/-- U5: SBC #$01. binary: $80-$01-0 = AddBinary(A, ~M, C). -/
theorem test_sbc_U5 :
    endsIn (step { start [(0x0200, 0xE9#8), (0x0201, 0x01#8)] with
      a := 0x80#8, c := true }) (fun t => t.a == 0x7F#8 && t.pc == 0x0202#16 && flags t == 0b010001#6) = true := by
      decide

/-- U15: SBC #$21. decimal: SubDecimal($12,$21,1). -/
theorem test_sbc_U15 :
    endsIn (step { start [(0x0200, 0xE9#8), (0x0201, 0x21#8)] with
      a := 0x12#8, d := true, c := true }) (fun t => t.a == 0x91#8 && t.pc == 0x0202#16 && t.n == true && t.d == true
      && t.i == false && t.z == false && t.c == false) = true := by decide

/-- L2: AND #$0F. AND result zero: Z=1; C, V untouched. -/
theorem test_and_L2 :
    endsIn (step { start [(0x0200, 0x29#8), (0x0201, 0x0F#8)] with
      a := 0xF0#8, v := true, c := true }) (fun t => t.a == 0x00#8 && t.pc == 0x0202#16 && flags t == 0b010011#6) =
      true := by decide

/-- L4: AND ($40). AND (zp). -/
theorem test_and_L4 :
    endsIn (step { start [(0x0041, 0x80#8), (0x0200, 0x32#8), (0x0201, 0x40#8), (0x8000, 0x5A#8)] with
      a := 0xFF#8 }) (fun t => t.a == 0x5A#8 && t.pc == 0x0202#16 && flags t == 0b000000#6) = true := by decide

/-- L7: ORA $20FF,X. ORA abs,X. -/
theorem test_ora_L7 :
    endsIn (step { start [(0x0200, 0x1D#8), (0x0201, 0xFF#8), (0x0202, 0x20#8), (0x2100, 0x40#8)] with
      a := 0x01#8, x := 0x01#8 }) (fun t => t.a == 0x41#8 && t.pc == 0x0203#16 && flags t == 0b000000#6) = true := by
      decide

/-- L10: EOR ($30),Y. EOR (zp),Y: $4001+$FF=$4100. -/
theorem test_eor_L10 :
    endsIn (step { start [(0x0030, 0x01#8), (0x0031, 0x40#8), (0x0200, 0x51#8), (0x0201, 0x30#8), (0x4100, 0xF0#8)]
      with
      a := 0x0F#8, y := 0xFF#8 }) (fun t => t.a == 0xFF#8 && t.pc == 0x0202#16 && flags t == 0b100000#6) = true := by
      decide

/-- D8: LDA ($FE,X). LDA (zp,X): pointer bytes at $FF and $00. -/
theorem test_lda_D8 :
    endsIn (step { start [(0x0000, 0x30#8), (0x0200, 0xA1#8), (0x0201, 0xFE#8), (0x3000, 0x42#8)] with
      x := 0x01#8 }) (fun t => t.a == 0x42#8 && t.pc == 0x0202#16 && flags t == 0b000000#6) = true := by decide

/-- D9: LDA ($10),Y. LDA (zp),Y: $FFFF+$FF wraps to $00FE. -/
theorem test_lda_D9 :
    endsIn (step { start [(0x0010, 0xFF#8), (0x0011, 0xFF#8), (0x00FE, 0x42#8), (0x0200, 0xB1#8), (0x0201, 0x10#8)]
      with
      y := 0xFF#8 }) (fun t => t.a == 0x42#8 && t.pc == 0x0202#16 && flags t == 0b000000#6) = true := by decide

/-- D12: LDX $10. LDX zp, zero. -/
theorem test_ldx_D12 :
    endsIn (step (start [(0x0200, 0xA6#8), (0x0201, 0x10#8)])) (fun t => t.pc == 0x0202#16 && flags t == 0b000010#6)
      = true := by decide

/-- D13: LDX $F0,Y. LDX zp,Y wraps. -/
theorem test_ldx_D13 :
    endsIn (step { start [(0x0010, 0x42#8), (0x0200, 0xB6#8), (0x0201, 0xF0#8)] with
      y := 0x20#8 }) (fun t => t.x == 0x42#8 && t.pc == 0x0202#16 && flags t == 0b000000#6) = true := by decide

/-- D17: LDY $10. LDY zp. -/
theorem test_ldy_D17 :
    endsIn (step (start [(0x0010, 0x80#8), (0x0200, 0xA4#8), (0x0201, 0x10#8)])) (fun t => t.y == 0x80#8 && t.pc ==
      0x0202#16 && flags t == 0b100000#6) = true := by decide

/-- D20: LDY $3000,X. LDY abs,X. -/
theorem test_ldy_D20 :
    endsIn (step { start [(0x0200, 0xBC#8), (0x0202, 0x30#8), (0x3002, 0x42#8)] with
      x := 0x02#8 }) (fun t => t.y == 0x42#8 && t.pc == 0x0203#16 && flags t == 0b000000#6) = true := by decide

/-- W5: STA $FFFF,Y. STA abs,Y wraps to $0001. -/
theorem test_sta_W5 :
    endsIn (step { start [(0x0200, 0x99#8), (0x0201, 0xFF#8), (0x0202, 0xFF#8)] with
      a := 0xAA#8, y := 0x02#8 }) (fun t => t.pc == 0x0203#16 && flags t == 0b000000#6 && t.peek 0x0001#16 == 0xAA#8)
      = true := by decide

/-- W6: STA ($10,X). STA (zp,X). -/
theorem test_sta_W6 :
    endsIn (step { start [(0x0021, 0x30#8), (0x0200, 0x81#8), (0x0201, 0x10#8)] with
      a := 0xAA#8, x := 0x10#8 }) (fun t => t.pc == 0x0202#16 && flags t == 0b000000#6 && t.peek 0x3000#16 == 0xAA#8)
      = true := by decide

/-- W10: STX $10,Y. STX zp,Y wraps to $0000. -/
theorem test_stx_W10 :
    endsIn (step { start [(0x0200, 0x96#8), (0x0201, 0x10#8)] with
      x := 0x77#8, y := 0xF0#8 }) (fun t => t.pc == 0x0202#16 && flags t == 0b000000#6 && t.peek 0x0000#16 == 0x77#8)
      = true := by decide

/-- W13: STY $10,X. STY zp,X. -/
theorem test_sty_W13 :
    endsIn (step { start [(0x0200, 0x94#8), (0x0201, 0x10#8)] with
      x := 0x01#8, y := 0x66#8 }) (fun t => t.pc == 0x0202#16 && flags t == 0b000000#6 && t.peek 0x0011#16 == 0x66#8)
      = true := by decide

/-- W15: STZ $10. STZ zp: writes $00; Z flag untouched. -/
theorem test_stz_W15 :
    endsIn (step { start [(0x0010, 0xFF#8), (0x0200, 0x64#8), (0x0201, 0x10#8)] with
      a := 0xFF#8 }) (fun t => t.pc == 0x0202#16 && flags t == 0b000000#6 && t.peek 0x0010#16 == 0x00#8) = true := by
      decide

/-- S3: ASL A. ASL A: old C is not shifted in; N=1. -/
theorem test_asl_S3 :
    endsIn (step { start [(0x0200, 0x0A#8)] with
      a := 0x40#8, c := true }) (fun t => t.a == 0x80#8 && t.pc == 0x0201#16 && flags t == 0b100000#6) = true := by
      decide

/-- S4: ASL $10. ASL zp: memory changes, A does not. -/
theorem test_asl_S4 :
    endsIn (step (start [(0x0010, 0xC0#8), (0x0200, 0x06#8), (0x0201, 0x10#8)])) (fun t => t.pc == 0x0202#16 && flags
      t == 0b100001#6 && t.peek 0x0010#16 == 0x80#8) = true := by decide

/-- S5: LSR A. LSR A: bit 0 to C; N always 0. -/
theorem test_lsr_S5 :
    endsIn (step { start [(0x0200, 0x4A#8)] with
      a := 0x01#8 }) (fun t => t.a == 0x00#8 && t.pc == 0x0201#16 && flags t == 0b000011#6) = true := by decide

/-- S7: LSR $3000,X. LSR abs,X. -/
theorem test_lsr_S7 :
    endsIn (step { start [(0x0200, 0x5E#8), (0x0202, 0x30#8), (0x3005, 0xFF#8)] with
      x := 0x05#8 }) (fun t => t.pc == 0x0203#16 && flags t == 0b000001#6 && t.peek 0x3005#16 == 0x7F#8) = true := by
      decide

/-- S8: ROL A. ROL A: old C into bit 0, bit 7 to C. -/
theorem test_rol_S8 :
    endsIn (step { start [(0x0200, 0x2A#8)] with
      a := 0x80#8, c := true }) (fun t => t.a == 0x01#8 && t.pc == 0x0201#16 && flags t == 0b000001#6) = true := by
      decide

/-- S10: ROL $10,X. ROL zp,X. -/
theorem test_rol_S10 :
    endsIn (step { start [(0x0011, 0x40#8), (0x0200, 0x36#8), (0x0201, 0x10#8)] with
      x := 0x01#8, c := true }) (fun t => t.pc == 0x0202#16 && flags t == 0b100000#6 && t.peek 0x0011#16 == 0x81#8) =
      true := by decide

/-- S11: ROR A. ROR A: old C into bit 7, bit 0 to C. -/
theorem test_ror_S11 :
    endsIn (step { start [(0x0200, 0x6A#8)] with
      a := 0x01#8, c := true }) (fun t => t.a == 0x80#8 && t.pc == 0x0201#16 && flags t == 0b100001#6) = true := by
      decide

/-- S13: ROR $3000. ROR abs. -/
theorem test_ror_S13 :
    endsIn (step { start [(0x0200, 0x6E#8), (0x0202, 0x30#8), (0x3000, 0x02#8)] with
      c := true }) (fun t => t.pc == 0x0203#16 && flags t == 0b100000#6 && t.peek 0x3000#16 == 0x81#8) = true := by
      decide

/-- I1: INC A. INC A wraps to 0: Z=1, C untouched. -/
theorem test_inc_I1 :
    endsIn (step { start [(0x0200, 0x1A#8)] with
      a := 0xFF#8 }) (fun t => t.a == 0x00#8 && t.pc == 0x0201#16 && flags t == 0b000010#6) = true := by decide

/-- I6: INC $FF,X. INC zp,X wraps in page zero. -/
theorem test_inc_I6 :
    endsIn (step { start [(0x0001, 0x7F#8), (0x0200, 0xF6#8), (0x0201, 0xFF#8)] with
      x := 0x02#8 }) (fun t => t.pc == 0x0202#16 && flags t == 0b100000#6 && t.peek 0x0001#16 == 0x80#8) = true := by
      decide

/-- I3: DEC A. DEC A wraps to $FF; C untouched. -/
theorem test_dec_I3 :
    endsIn (step { start [(0x0200, 0x3A#8)] with
      c := true }) (fun t => t.a == 0xFF#8 && t.pc == 0x0201#16 && flags t == 0b100001#6) = true := by decide

/-- I9: DEC $10. DEC zp wraps. -/
theorem test_dec_I9 :
    endsIn (step (start [(0x0200, 0xC6#8), (0x0201, 0x10#8)])) (fun t => t.pc == 0x0202#16 && flags t == 0b100000#6
      && t.peek 0x0010#16 == 0xFF#8) = true := by decide

/-- C3: CMP #$40. CMP $30 with $40: C = (A>=M) unsigned; N,Z from A-M; V and A untouched. -/
theorem test_cmp_C3 :
    endsIn (step { start [(0x0200, 0xC9#8), (0x0201, 0x40#8)] with
      a := 0x30#8, v := true }) (fun t => t.pc == 0x0202#16 && flags t == 0b110000#6) = true := by decide

/-- C8: CMP ($10). CMP (zp). -/
theorem test_cmp_C8 :
    endsIn (step { start [(0x0011, 0x40#8), (0x0200, 0xD2#8), (0x0201, 0x10#8), (0x4000, 0x55#8)] with
      a := 0x55#8 }) (fun t => t.pc == 0x0202#16 && flags t == 0b000011#6) = true := by decide

/-- C10: CPX $10. CPX zp, less. -/
theorem test_cpx_C10 :
    endsIn (step { start [(0x0010, 0x10#8), (0x0200, 0xE4#8), (0x0201, 0x10#8)] with
      x := 0x0F#8 }) (fun t => t.pc == 0x0202#16 && flags t == 0b100000#6) = true := by decide

/-- C14: CPY $3000. CPY abs. -/
theorem test_cpy_C14 :
    endsIn (step { start [(0x0200, 0xCC#8), (0x0202, 0x30#8), (0x3000, 0x7F#8)] with
      y := 0x80#8 }) (fun t => t.pc == 0x0203#16 && flags t == 0b000001#6) = true := by decide

/-- T4: BIT $10,X. BIT zp,X with wrap. -/
theorem test_bit_T4 :
    endsIn (step { start [(0x0008, 0x80#8), (0x0200, 0x34#8), (0x0201, 0x10#8)] with
      a := 0x80#8, x := 0xF8#8 }) (fun t => t.pc == 0x0202#16 && flags t == 0b100000#6) = true := by decide

/-- T6: BIT #$C0. BIT #imm: only Z changes; N, V stay 0 though operand bits 7, 6 are 1. -/
theorem test_bit_T6 :
    endsIn (step { start [(0x0200, 0x89#8), (0x0201, 0xC0#8)] with
      a := 0x01#8 }) (fun t => t.pc == 0x0202#16 && flags t == 0b000010#6) = true := by decide

/-- K1: BRK. BRK: pushes $02,$02 then SR image $B9 = N,1,B,D,C; then I=1, D=0; PC from $FFFE/F. -/
theorem test_brk_K1 :
    endsIn (step { start [(0x0201, 0xEA#8), (0xFFFF, 0x80#8)] with
      n := true, d := true, c := true }) (fun t => t.sp == 0xFC#8 && t.pc == 0x8000#16 && flags t == 0b100101#6 &&
      t.peek 0x01FF#16 == 0x02#8 && t.peek 0x01FE#16 == 0x02#8 && t.peek 0x01FD#16 == 0xB9#8) = true := by decide

/-- K2: BRK. BRK with SP=$01: pushes wrap inside page one ($0101, $0100, $01FF). -/
theorem test_brk_K2 :
    endsIn (step { start [(0x0201, 0xEA#8), (0xFFFE, 0x34#8), (0xFFFF, 0x12#8)] with
      sp := 0x01#8, i := true }) (fun t => t.sp == 0xFE#8 && t.pc == 0x1234#16 && flags t == 0b000100#6 && t.peek
      0x0101#16 == 0x02#8 && t.peek 0x0100#16 == 0x02#8 && t.peek 0x01FF#16 == 0x34#8) = true := by decide

/-- K4: CLC. -/
theorem test_clc_K4 :
    endsIn (step { start [(0x0200, 0x18#8)] with
      n := true, z := true, c := true }) (fun t => t.pc == 0x0201#16 && flags t == 0b100010#6) = true := by decide

/-- K5: SEC. -/
theorem test_sec_K5 :
    endsIn (step (start [(0x0200, 0x38#8)])) (fun t => t.pc == 0x0201#16 && flags t == 0b000001#6) = true := by decide

/-- K6: CLD. -/
theorem test_cld_K6 :
    endsIn (step { start [(0x0200, 0xD8#8)] with
      d := true }) (fun t => t.pc == 0x0201#16 && flags t == 0b000000#6) = true := by decide

/-- K7: SED. -/
theorem test_sed_K7 :
    endsIn (step (start [(0x0200, 0xF8#8)])) (fun t => t.pc == 0x0201#16 && flags t == 0b001000#6) = true := by decide

/-- K8: CLI. -/
theorem test_cli_K8 :
    endsIn (step { start [(0x0200, 0x58#8)] with
      i := true }) (fun t => t.pc == 0x0201#16 && flags t == 0b000000#6) = true := by decide

/-- K9: SEI. -/
theorem test_sei_K9 :
    endsIn (step (start [(0x0200, 0x78#8)])) (fun t => t.pc == 0x0201#16 && flags t == 0b000100#6) = true := by decide

/-- K10: CLV. -/
theorem test_clv_K10 :
    endsIn (step { start [(0x0200, 0xB8#8)] with
      v := true, c := true }) (fun t => t.pc == 0x0201#16 && flags t == 0b000001#6) = true := by decide

/-- R1: BPL $10. BPL with N=0. -/
theorem test_bpl_R1 :
    endsIn (step (start [(0x0200, 0x10#8), (0x0201, 0x10#8)])) (fun t => t.pc == 0x0212#16 && flags t == 0b000000#6)
      = true := by decide

/-- R2: BPL $10. BPL with N=1. -/
theorem test_bpl_R2 :
    endsIn (step { start [(0x0200, 0x10#8), (0x0201, 0x10#8)] with
      n := true }) (fun t => t.pc == 0x0202#16 && flags t == 0b100000#6) = true := by decide

/-- R3: BMI $10. BMI with N=0. -/
theorem test_bmi_R3 :
    endsIn (step (start [(0x0200, 0x30#8), (0x0201, 0x10#8)])) (fun t => t.pc == 0x0202#16 && flags t == 0b000000#6)
      = true := by decide

/-- R4: BMI $10. BMI with N=1. -/
theorem test_bmi_R4 :
    endsIn (step { start [(0x0200, 0x30#8), (0x0201, 0x10#8)] with
      n := true }) (fun t => t.pc == 0x0212#16 && flags t == 0b100000#6) = true := by decide

/-- R5: BVC $10. BVC with V=0. -/
theorem test_bvc_R5 :
    endsIn (step (start [(0x0200, 0x50#8), (0x0201, 0x10#8)])) (fun t => t.pc == 0x0212#16 && flags t == 0b000000#6)
      = true := by decide

/-- R6: BVC $10. BVC with V=1. -/
theorem test_bvc_R6 :
    endsIn (step { start [(0x0200, 0x50#8), (0x0201, 0x10#8)] with
      v := true }) (fun t => t.pc == 0x0202#16 && flags t == 0b010000#6) = true := by decide

/-- R7: BVS $10. BVS with V=0. -/
theorem test_bvs_R7 :
    endsIn (step (start [(0x0200, 0x70#8), (0x0201, 0x10#8)])) (fun t => t.pc == 0x0202#16 && flags t == 0b000000#6)
      = true := by decide

/-- R8: BVS $10. BVS with V=1. -/
theorem test_bvs_R8 :
    endsIn (step { start [(0x0200, 0x70#8), (0x0201, 0x10#8)] with
      v := true }) (fun t => t.pc == 0x0212#16 && flags t == 0b010000#6) = true := by decide

/-- R9: BCC $10. BCC with C=0. -/
theorem test_bcc_R9 :
    endsIn (step (start [(0x0200, 0x90#8), (0x0201, 0x10#8)])) (fun t => t.pc == 0x0212#16 && flags t == 0b000000#6)
      = true := by decide

/-- R10: BCC $10. BCC with C=1. -/
theorem test_bcc_R10 :
    endsIn (step { start [(0x0200, 0x90#8), (0x0201, 0x10#8)] with
      c := true }) (fun t => t.pc == 0x0202#16 && flags t == 0b000001#6) = true := by decide

/-- R11: BCS $10. BCS with C=0. -/
theorem test_bcs_R11 :
    endsIn (step (start [(0x0200, 0xB0#8), (0x0201, 0x10#8)])) (fun t => t.pc == 0x0202#16 && flags t == 0b000000#6)
      = true := by decide

/-- R12: BCS $10. BCS with C=1. -/
theorem test_bcs_R12 :
    endsIn (step { start [(0x0200, 0xB0#8), (0x0201, 0x10#8)] with
      c := true }) (fun t => t.pc == 0x0212#16 && flags t == 0b000001#6) = true := by decide

/-- R13: BNE $10. BNE with Z=0. -/
theorem test_bne_R13 :
    endsIn (step (start [(0x0200, 0xD0#8), (0x0201, 0x10#8)])) (fun t => t.pc == 0x0212#16 && flags t == 0b000000#6)
      = true := by decide

/-- R14: BNE $10. BNE with Z=1. -/
theorem test_bne_R14 :
    endsIn (step { start [(0x0200, 0xD0#8), (0x0201, 0x10#8)] with
      z := true }) (fun t => t.pc == 0x0202#16 && flags t == 0b000010#6) = true := by decide

/-- R15: BEQ $10. BEQ with Z=0. -/
theorem test_beq_R15 :
    endsIn (step (start [(0x0200, 0xF0#8), (0x0201, 0x10#8)])) (fun t => t.pc == 0x0202#16 && flags t == 0b000000#6)
      = true := by decide

/-- R16: BEQ $10. BEQ with Z=1. -/
theorem test_beq_R16 :
    endsIn (step { start [(0x0200, 0xF0#8), (0x0201, 0x10#8)] with
      z := true }) (fun t => t.pc == 0x0212#16 && flags t == 0b000010#6) = true := by decide

/-- R18: BRA $FE. BRA to itself (offset -2). -/
theorem test_bra_R18 :
    endsIn (step (start [(0x0200, 0x80#8), (0x0201, 0xFE#8)])) (fun t => t.pc == 0x0200#16 && flags t == 0b000000#6)
      = true := by decide

/-- R23: BRA $F0. target wraps below $0000: $0006-16=$FFF6. -/
theorem test_bra_R23 :
    endsIn (step { start [(0x0004, 0x80#8), (0x0005, 0xF0#8)] with
      pc := 0x0004#16 }) (fun t => t.pc == 0xFFF6#16 && flags t == 0b000000#6) = true := by decide

/-- J4: JMP ($FFFF). JMP (abs) pointer at $FFFF: high byte from $0000. -/
theorem test_jmp_J4 :
    endsIn (step (start [(0x0000, 0x56#8), (0x0200, 0x6C#8), (0x0201, 0xFF#8), (0x0202, 0xFF#8), (0xFFFF, 0x78#8)]))
      (fun t => t.pc == 0x5678#16 && flags t == 0b000000#6) = true := by decide

/-- J6: JMP ($FFFF,X). JMP (abs,X): $FFFF+3 wraps to $0002. -/
theorem test_jmp_J6 :
    endsIn (step { start [(0x0002, 0x11#8), (0x0003, 0x22#8), (0x0200, 0x7C#8), (0x0201, 0xFF#8), (0x0202, 0xFF#8)]
      with
      x := 0x03#8 }) (fun t => t.pc == 0x2211#16 && flags t == 0b000000#6) = true := by decide

/-- J7: JSR $1234. JSR: pushes $02 then $02 (address of its last byte, $0202). -/
theorem test_jsr_J7 :
    endsIn (step (start [(0x0200, 0x20#8), (0x0201, 0x34#8), (0x0202, 0x12#8)])) (fun t => t.sp == 0xFD#8 && t.pc ==
      0x1234#16 && flags t == 0b000000#6 && t.peek 0x01FF#16 == 0x02#8 && t.peek 0x01FE#16 == 0x02#8) = true := by
      decide

/-- J8: JSR $8000. JSR with SP=$00: second push wraps to $01FF. -/
theorem test_jsr_J8 :
    endsIn (step { start [(0x0200, 0x20#8), (0x0202, 0x80#8)] with
      sp := 0x00#8 }) (fun t => t.sp == 0xFE#8 && t.pc == 0x8000#16 && flags t == 0b000000#6 && t.peek 0x0100#16 ==
      0x02#8 && t.peek 0x01FF#16 == 0x02#8) = true := by decide

/-- J11: RTS. RTS: $02FF+1 carries into the high byte. -/
theorem test_rts_J11 :
    endsIn (step { start [(0x01FE, 0xFF#8), (0x01FF, 0x02#8), (0x0200, 0x60#8)] with
      sp := 0xFD#8 }) (fun t => t.sp == 0xFF#8 && t.pc == 0x0300#16 && flags t == 0b000000#6) = true := by decide

/-- J13: RTS. RTS with SP=$FF: pulls from $0100 then $0101. -/
theorem test_rts_J13 :
    endsIn (step (start [(0x0100, 0x33#8), (0x0101, 0x44#8), (0x0200, 0x60#8)])) (fun t => t.sp == 0x01#8 && t.pc ==
      0x4434#16 && flags t == 0b000000#6) = true := by decide

/-- I13: INX. INX wraps. -/
theorem test_inx_I13 :
    endsIn (step { start [(0x0200, 0xE8#8)] with
      x := 0xFF#8 }) (fun t => t.x == 0x00#8 && t.pc == 0x0201#16 && flags t == 0b000010#6) = true := by decide

/-- I14: INY. -/
theorem test_iny_I14 :
    endsIn (step { start [(0x0200, 0xC8#8)] with
      y := 0x7F#8 }) (fun t => t.y == 0x80#8 && t.pc == 0x0201#16 && flags t == 0b100000#6) = true := by decide

/-- I15: DEX. DEX wraps. -/
theorem test_dex_I15 :
    endsIn (step (start [(0x0200, 0xCA#8)])) (fun t => t.x == 0xFF#8 && t.pc == 0x0201#16 && flags t == 0b100000#6) =
      true := by decide

/-- I16: DEY. DEY to zero. -/
theorem test_dey_I16 :
    endsIn (step { start [(0x0200, 0x88#8)] with
      y := 0x01#8 }) (fun t => t.y == 0x00#8 && t.pc == 0x0201#16 && flags t == 0b000010#6) = true := by decide

/-- O1: NOP. NOP: only PC changes. -/
theorem test_nop_O1 :
    endsIn (step { start [(0x0200, 0xEA#8)] with
      a := 0x11#8, x := 0x22#8, y := 0x33#8, n := true, v := true, d := true, i := true, z := true, c := true }) (fun
      t => t.a == 0x11#8 && t.x == 0x22#8 && t.y == 0x33#8 && t.sp == 0xFF#8 && t.pc == 0x0201#16 && flags t ==
      0b111111#6) = true := by decide

/-- O10: NOP. PC wraps $FFFF -> $0000. -/
theorem test_nop_O10 :
    endsIn (step { start [(0xFFFF, 0xEA#8)] with
      pc := 0xFFFF#16 }) (fun t => t.a == 0x00#8 && t.x == 0x00#8 && t.y == 0x00#8 && t.sp == 0xFF#8 && t.pc ==
      0x0000#16 && flags t == 0b000000#6) = true := by decide

/-- O3: nop1. nop1 $FB (highest of the 30). -/
theorem test_nop1_O3 :
    endsIn (step { start [(0x0200, 0xFB#8)] with
      a := 0x11#8, x := 0x22#8, y := 0x33#8, n := true, v := true, d := true, i := true, z := true, c := true }) (fun
      t => t.a == 0x11#8 && t.x == 0x22#8 && t.y == 0x33#8 && t.sp == 0xFF#8 && t.pc == 0x0201#16 && flags t ==
      0b111111#6) = true := by decide

/-- O5: nop2 $10. nop2 $44: no register takes the zero-page byte. -/
theorem test_nop2_O5 :
    endsIn (step { start [(0x0010, 0x99#8), (0x0200, 0x44#8), (0x0201, 0x10#8)] with
      a := 0x11#8, x := 0x22#8, y := 0x33#8, n := true, v := true, d := true, i := true, z := true, c := true }) (fun
      t => t.a == 0x11#8 && t.x == 0x22#8 && t.y == 0x33#8 && t.sp == 0xFF#8 && t.pc == 0x0202#16 && flags t ==
      0b111111#6) = true := by decide

/-- O7: nop3 $34 $12. nop3 $5C: three bytes, no jump. -/
theorem test_nop3_O7 :
    endsIn (step { start [(0x0200, 0x5C#8), (0x0201, 0x34#8), (0x0202, 0x12#8)] with
      a := 0x11#8, x := 0x22#8, y := 0x33#8, n := true, v := true, d := true, i := true, z := true, c := true }) (fun
      t => t.a == 0x11#8 && t.x == 0x22#8 && t.y == 0x33#8 && t.sp == 0xFF#8 && t.pc == 0x0203#16 && flags t ==
      0b111111#6) = true := by decide

/-- P2: PHA. PHA with SP=$00: write at $0100, SP wraps to $FF. -/
theorem test_pha_P2 :
    endsIn (step { start [(0x0200, 0x48#8)] with
      a := 0x42#8, sp := 0x00#8 }) (fun t => t.sp == 0xFF#8 && t.pc == 0x0201#16 && flags t == 0b000000#6 && t.peek
      0x0100#16 == 0x42#8) = true := by decide

/-- P3: PHX. PHX: no flags. -/
theorem test_phx_P3 :
    endsIn (step { start [(0x0200, 0xDA#8)] with
      x := 0x80#8 }) (fun t => t.sp == 0xFE#8 && t.pc == 0x0201#16 && flags t == 0b000000#6 && t.peek 0x01FF#16 ==
      0x80#8) = true := by decide

/-- P4: PHY. -/
theorem test_phy_P4 :
    endsIn (step { start [(0x0200, 0x5A#8)] with
      sp := 0x80#8 }) (fun t => t.sp == 0x7F#8 && t.pc == 0x0201#16 && flags t == 0b000000#6 && t.peek 0x0180#16 ==
      0x00#8) = true := by decide

/-- P6: PHP. PHP, all flags 1: $FF. -/
theorem test_php_P6 :
    endsIn (step { start [(0x0200, 0x08#8)] with
      n := true, v := true, d := true, i := true, z := true, c := true }) (fun t => t.sp == 0xFE#8 && t.pc ==
      0x0201#16 && flags t == 0b111111#6 && t.peek 0x01FF#16 == 0xFF#8) = true := by decide

/-- P7: PHP. PHP: $B1. -/
theorem test_php_P7 :
    endsIn (step { start [(0x0200, 0x08#8)] with
      n := true, c := true }) (fun t => t.sp == 0xFE#8 && t.pc == 0x0201#16 && flags t == 0b100001#6 && t.peek
      0x01FF#16 == 0xB1#8) = true := by decide

/-- P8: PLA. PLA: SP+1 then read; Z=1. -/
theorem test_pla_P8 :
    endsIn (step { start [(0x0200, 0x68#8)] with
      a := 0x55#8, sp := 0xFE#8 }) (fun t => t.a == 0x00#8 && t.sp == 0xFF#8 && t.pc == 0x0201#16 && flags t ==
      0b000010#6) = true := by decide

/-- P9: PLA. PLA with SP=$FF: SP wraps to $00, reads $0100. -/
theorem test_pla_P9 :
    endsIn (step (start [(0x0100, 0x80#8), (0x0200, 0x68#8)])) (fun t => t.a == 0x80#8 && t.sp == 0x00#8 && t.pc ==
      0x0201#16 && flags t == 0b100000#6) = true := by decide

/-- P10: PLX. -/
theorem test_plx_P10 :
    endsIn (step { start [(0x0180, 0x7F#8), (0x0200, 0xFA#8)] with
      sp := 0x7F#8 }) (fun t => t.x == 0x7F#8 && t.sp == 0x80#8 && t.pc == 0x0201#16 && flags t == 0b000000#6) = true
      := by decide

/-- P11: PLY. PLY: N=1. -/
theorem test_ply_P11 :
    endsIn (step { start [(0x01FF, 0xFF#8), (0x0200, 0x7A#8)] with
      sp := 0xFE#8 }) (fun t => t.y == 0xFF#8 && t.sp == 0xFF#8 && t.pc == 0x0201#16 && flags t == 0b100000#6) = true
      := by decide

/-- P13: PLP. PLP $00: all six flags 0; bits 5, 4 of the byte ignored. -/
theorem test_plp_P13 :
    endsIn (step { start [(0x0200, 0x28#8)] with
      sp := 0xFE#8, n := true, v := true, d := true, i := true, z := true, c := true }) (fun t => t.sp == 0xFF#8 &&
      t.pc == 0x0201#16 && flags t == 0b000000#6) = true := by decide

/-- P15: PLP. PLP $CF = N V D I Z C all 1 with bits 5, 4 clear: same state as PLP $FF. -/
theorem test_plp_P15 :
    endsIn (step { start [(0x01FF, 0xCF#8), (0x0200, 0x28#8)] with
      sp := 0xFE#8 }) (fun t => t.sp == 0xFF#8 && t.pc == 0x0201#16 && flags t == 0b111111#6) = true := by decide

/-- Q1: RTI. RTI undoing vector K1: flags from $B9 (N, D, C), PC=$0202 with no +1. -/
theorem test_rti_Q1 :
    endsIn (step { start [(0x01FD, 0xB9#8), (0x01FE, 0x02#8), (0x01FF, 0x02#8), (0x0200, 0x40#8)] with
      sp := 0xFC#8, i := true }) (fun t => t.sp == 0xFF#8 && t.pc == 0x0202#16 && flags t == 0b101001#6) = true := by
      decide

/-- Q3: RTI. RTI with SP=$FE: pulls from $01FF, $0100, $0101. -/
theorem test_rti_Q3 :
    endsIn (step { start [(0x0100, 0x34#8), (0x0101, 0x12#8), (0x01FF, 0x04#8), (0x0200, 0x40#8)] with
      sp := 0xFE#8 }) (fun t => t.sp == 0x01#8 && t.pc == 0x1234#16 && flags t == 0b000100#6) = true := by decide

/-- W20: STP. STP: PC advanced, run state Stopped. -/
theorem test_stp_W20 :
    endsIn (step { start [(0x0200, 0xDB#8)] with
      a := 0x01#8 }) (fun t => t.pc == 0x0201#16 && flags t == 0b000000#6 && t.run == .stopped) = true := by decide

/-- X1: TAX. TAX: N=1. -/
theorem test_tax_X1 :
    endsIn (step { start [(0x0200, 0xAA#8)] with
      a := 0x80#8 }) (fun t => t.x == 0x80#8 && t.pc == 0x0201#16 && flags t == 0b100000#6) = true := by decide

/-- X2: TAX. TAX zero. -/
theorem test_tax_X2 :
    endsIn (step { start [(0x0200, 0xAA#8)] with
      x := 0x55#8 }) (fun t => t.x == 0x00#8 && t.pc == 0x0201#16 && flags t == 0b000010#6) = true := by decide

/-- X3: TAY. -/
theorem test_tay_X3 :
    endsIn (step { start [(0x0200, 0xA8#8)] with
      a := 0x7F#8 }) (fun t => t.y == 0x7F#8 && t.pc == 0x0201#16 && flags t == 0b000000#6) = true := by decide

/-- X4: TXA. -/
theorem test_txa_X4 :
    endsIn (step { start [(0x0200, 0x8A#8)] with
      x := 0xFF#8 }) (fun t => t.a == 0xFF#8 && t.pc == 0x0201#16 && flags t == 0b100000#6) = true := by decide

/-- X5: TYA. TYA zero. -/
theorem test_tya_X5 :
    endsIn (step { start [(0x0200, 0x98#8)] with
      a := 0x55#8 }) (fun t => t.a == 0x00#8 && t.pc == 0x0201#16 && flags t == 0b000010#6) = true := by decide

/-- X7: TSX. TSX with SP=$00: Z=1. -/
theorem test_tsx_X7 :
    endsIn (step { start [(0x0200, 0xBA#8)] with
      x := 0x55#8, sp := 0x00#8 }) (fun t => t.x == 0x00#8 && t.pc == 0x0201#16 && flags t == 0b000010#6) = true :=
      by decide

/-- X8: TXS. TXS: no flags, even for zero. -/
theorem test_txs_X8 :
    endsIn (step { start [(0x0200, 0x9A#8)] with
      n := true }) (fun t => t.sp == 0x00#8 && t.pc == 0x0201#16 && flags t == 0b100000#6) = true := by decide

/-- Y1: TRB $10. TRB zp: M & ~A; A&M nonzero so Z=0. -/
theorem test_trb_Y1 :
    endsIn (step { start [(0x0010, 0xFF#8), (0x0200, 0x14#8), (0x0201, 0x10#8)] with
      a := 0x0F#8 }) (fun t => t.pc == 0x0202#16 && flags t == 0b000000#6 && t.peek 0x0010#16 == 0xF0#8) = true := by
      decide

/-- Y3: TRB $3000. TRB abs: result 0 but Z=0 (Z is from A&M, not from the result); N untouched. -/
theorem test_trb_Y3 :
    endsIn (step { start [(0x0200, 0x1C#8), (0x0202, 0x30#8), (0x3000, 0x80#8)] with
      a := 0xFF#8 }) (fun t => t.pc == 0x0203#16 && flags t == 0b000000#6 && t.peek 0x3000#16 == 0x00#8) = true := by
      decide

/-- Y5: TSB $10. TSB zp: Z=0; N untouched though result is $81. -/
theorem test_tsb_Y5 :
    endsIn (step { start [(0x0010, 0x01#8), (0x0200, 0x04#8), (0x0201, 0x10#8)] with
      a := 0x81#8 }) (fun t => t.pc == 0x0202#16 && flags t == 0b000000#6 && t.peek 0x0010#16 == 0x81#8) = true := by
      decide

/-- Y7: TSB $10. TSB as test-and-set lock: lock was free (Z=1), now taken. -/
theorem test_tsb_Y7 :
    endsIn (step { start [(0x0200, 0x04#8), (0x0201, 0x10#8)] with
      a := 0x80#8 }) (fun t => t.pc == 0x0202#16 && flags t == 0b000010#6 && t.peek 0x0010#16 == 0x80#8) = true := by
      decide

/-- Z1: WAI. WAI: PC advanced, run state Waiting, nothing else. -/
theorem test_wai_Z1 :
    endsIn (step { start [(0x0200, 0xCB#8)] with
      i := true }) (fun t => t.pc == 0x0201#16 && flags t == 0b000100#6 && t.run == .waiting) = true := by decide

/-- B9: BBR 3,$10,$10. BBR 3 taken, target wraps past $FFFF: $FFFD+$10=$000D. -/
theorem test_bbr3_B9 :
    endsIn (step { start [(0xFFFA, 0x3F#8), (0xFFFB, 0x10#8), (0xFFFC, 0x10#8)] with
      pc := 0xFFFA#16 }) (fun t => t.pc == 0x000D#16 && flags t == 0b000000#6) = true := by decide

/-- B3: BBR 7,$10,$FB. BBR 7 taken backward: $0203-5=$01FE. -/
theorem test_bbr7_B3 :
    endsIn (step (start [(0x0010, 0x7F#8), (0x0200, 0x7F#8), (0x0201, 0x10#8), (0x0202, 0xFB#8)])) (fun t => t.pc ==
      0x01FE#16 && flags t == 0b000000#6) = true := by decide

/-- B8: BBS 4,$10,$FD. BBS 4 to itself; no flag changes. -/
theorem test_bbs4_B8 :
    endsIn (step { start [(0x0010, 0x10#8), (0x0200, 0xCF#8), (0x0201, 0x10#8), (0x0202, 0xFD#8)] with
      n := true, v := true, z := true, c := true }) (fun t => t.pc == 0x0200#16 && flags t == 0b110011#6) = true :=
      by decide

/-- B7: BBS 7,$10,$80. BBS 7 taken, largest backward offset: $0203-128=$0183. -/
theorem test_bbs7_B7 :
    endsIn (step (start [(0x0010, 0x80#8), (0x0200, 0xFF#8), (0x0201, 0x10#8), (0x0202, 0x80#8)])) (fun t => t.pc ==
      0x0183#16 && flags t == 0b000000#6) = true := by decide

/-- M2: RMB 7,$10. RMB 7. -/
theorem test_rmb7_M2 :
    endsIn (step (start [(0x0010, 0xFF#8), (0x0200, 0x77#8), (0x0201, 0x10#8)])) (fun t => t.pc == 0x0202#16 && flags
      t == 0b000000#6 && t.peek 0x0010#16 == 0x7F#8) = true := by decide

/-- M5: SMB 7,$10. SMB 7: memory becomes $80 but N stays 0 (no flags). -/
theorem test_smb7_M5 :
    endsIn (step (start [(0x0200, 0xF7#8), (0x0201, 0x10#8)])) (fun t => t.pc == 0x0202#16 && flags t == 0b000000#6
      && t.peek 0x0010#16 == 0x80#8) = true := by decide

/-- V2: IRQ taken (I=0): pushes $02, $00, SR image $20 (bit 5 only, B=0); I=1; PC from $FFFE/F; the NOP is not
executed. -/
theorem test_irq_V2 :
    endsIn (step { start [(0x0200, 0xEA#8), (0xFFFB, 0x90#8), (0xFFFD, 0x80#8), (0xFFFF, 0xA0#8)] with
      inputs := [⟨false, false, true⟩] }) (fun t => t.sp == 0xFC#8 && t.pc == 0xA000#16 && flags t == 0b000100#6 &&
      t.nmiPending == false && t.run == .running && t.peek 0x01FF#16 == 0x02#8 && t.peek 0x01FE#16 == 0x00#8 &&
      t.peek 0x01FD#16 == 0x20#8) = true := by decide

/-- V3: IRQ masked: the NOP executes; nothing is latched. -/
theorem test_irq_V3 :
    endsIn (step { start [(0x0200, 0xEA#8), (0xFFFB, 0x90#8), (0xFFFD, 0x80#8), (0xFFFF, 0xA0#8)] with
      i := true, inputs := [⟨false, false, true⟩] }) (fun t => t.pc == 0x0201#16 && flags t == 0b000100#6 &&
      t.nmiPending == false && t.run == .running) = true := by decide

/-- V4: IRQ with flags set: stacked byte $EB shows D=1, I=0, B=0; afterwards D=0, I=1, other flags kept. -/
theorem test_irq_V4 :
    endsIn (step { start [(0x0200, 0xEA#8), (0xFFFB, 0x90#8), (0xFFFD, 0x80#8), (0xFFFF, 0xA0#8)] with
      n := true, v := true, d := true, z := true, c := true, inputs := [⟨false, false, true⟩] }) (fun t => t.sp ==
      0xFC#8 && t.pc == 0xA000#16 && flags t == 0b110111#6 && t.nmiPending == false && t.run == .running && t.peek
      0x01FF#16 == 0x02#8 && t.peek 0x01FE#16 == 0x00#8 && t.peek 0x01FD#16 == 0xEB#8) = true := by decide

/-- V10: Waiting, IRQ low but masked: wakes without a sequence; no push; next step executes at $0203. -/
theorem test_irq_V10 :
    endsIn (step { start [(0x0200, 0xEA#8), (0xFFFB, 0x90#8), (0xFFFD, 0x80#8), (0xFFFF, 0xA0#8)] with
      pc := 0x0203#16, i := true, run := .waiting, inputs := [⟨false, false, true⟩] }) (fun t => t.pc == 0x0203#16 &&
      flags t == 0b000100#6 && t.nmiPending == false && t.run == .running) = true := by decide

/-- V5: NMI ignores I: pushes SR image $24 (bit 5 and I); vector $FFFA/B; latch cleared. -/
theorem test_nmi_V5 :
    endsIn (step { start [(0x0200, 0xEA#8), (0xFFFB, 0x90#8), (0xFFFD, 0x80#8), (0xFFFF, 0xA0#8)] with
      i := true, inputs := [⟨false, true, false⟩] }) (fun t => t.sp == 0xFC#8 && t.pc == 0x9000#16 && flags t ==
      0b000100#6 && t.nmiPending == false && t.run == .running && t.peek 0x01FF#16 == 0x02#8 && t.peek 0x01FE#16 ==
      0x00#8 && t.peek 0x01FD#16 == 0x24#8) = true := by decide

/-- V6: NMI and IRQ together: NMI wins; IRQ stays pending on its line and is now masked by I=1. -/
theorem test_nmi_V6 :
    endsIn (step { start [(0x0200, 0xEA#8), (0xFFFB, 0x90#8), (0xFFFD, 0x80#8), (0xFFFF, 0xA0#8)] with
      inputs := [⟨false, true, true⟩] }) (fun t => t.sp == 0xFC#8 && t.pc == 0x9000#16 && flags t == 0b000100#6 &&
      t.nmiPending == false && t.run == .running && t.peek 0x01FF#16 == 0x02#8 && t.peek 0x01FE#16 == 0x00#8 &&
      t.peek 0x01FD#16 == 0x20#8) = true := by decide

/-- V7: NMI latched at an earlier boundary (np=1) is taken now although no edge is present. -/
theorem test_nmi_V7 :
    endsIn (step { start [(0x0200, 0xEA#8), (0xFFFB, 0x90#8), (0xFFFD, 0x80#8), (0xFFFF, 0xA0#8)] with
      nmiPending := true, inputs := [⟨false, false, false⟩] }) (fun t => t.sp == 0xFC#8 && t.pc == 0x9000#16 && flags
      t == 0b000100#6 && t.nmiPending == false && t.run == .running && t.peek 0x01FF#16 == 0x02#8 && t.peek 0x01FE#16
      == 0x00#8 && t.peek 0x01FD#16 == 0x20#8) = true := by decide

/-- V12: Waiting, NMI edge: NMI sequence, return address $0203. -/
theorem test_nmi_V12 :
    endsIn (step { start [(0x0200, 0xEA#8), (0xFFFB, 0x90#8), (0xFFFD, 0x80#8), (0xFFFF, 0xA0#8)] with
      pc := 0x0203#16, i := true, run := .waiting, inputs := [⟨false, true, false⟩] }) (fun t => t.sp == 0xFC#8 &&
      t.pc == 0x9000#16 && flags t == 0b000100#6 && t.nmiPending == false && t.run == .running && t.peek 0x01FF#16 ==
      0x02#8 && t.peek 0x01FE#16 == 0x03#8 && t.peek 0x01FD#16 == 0x24#8) = true := by decide

/-- V13: Stopped: IRQ and NMI ignored (the edge is latched but not acted on). -/
theorem test_stopped_V13 :
    endsIn (step { start [(0x0200, 0xEA#8), (0xFFFB, 0x90#8), (0xFFFD, 0x80#8), (0xFFFF, 0xA0#8)] with
      pc := 0x0201#16, run := .stopped, inputs := [⟨false, true, true⟩] }) (fun t => t.pc == 0x0201#16 && flags t ==
      0b000000#6 && t.nmiPending == true && t.run == .stopped) = true := by decide

/-- V9: return address is the next instruction to execute, here $0203. -/
theorem test_wai_V9 :
    endsIn (step { start [(0x0200, 0xEA#8), (0xFFFB, 0x90#8), (0xFFFD, 0x80#8), (0xFFFF, 0xA0#8)] with
      pc := 0x0203#16, run := .waiting, inputs := [⟨false, false, true⟩] }) (fun t => t.sp == 0xFC#8 && t.pc ==
      0xA000#16 && flags t == 0b000100#6 && t.nmiPending == false && t.run == .running && t.peek 0x01FF#16 == 0x02#8
      && t.peek 0x01FE#16 == 0x03#8 && t.peek 0x01FD#16 == 0x20#8) = true := by decide

/-- V11: Waiting, no input: nothing changes. -/
theorem test_wai_V11 :
    endsIn (step { start [(0x0200, 0xEA#8), (0xFFFB, 0x90#8), (0xFFFD, 0x80#8), (0xFFFF, 0xA0#8)] with
      pc := 0x0203#16, run := .waiting, inputs := [⟨false, false, false⟩] }) (fun t => t.pc == 0x0203#16 && flags t
      == 0b000000#6 && t.nmiPending == false && t.run == .waiting) = true := by decide

/-- V14: Stopped, reset: I=1, D=0, PC from $FFFC/D, Running; no stack write. -/
theorem test_reset_V14 :
    endsIn (step { start [(0x0200, 0xEA#8), (0xFFFB, 0x90#8), (0xFFFD, 0x80#8), (0xFFFF, 0xA0#8)] with
      pc := 0x0201#16, d := true, run := .stopped, inputs := [⟨true, false, false⟩] }) (fun t => t.pc == 0x8000#16 &&
      t.d == false && t.i == true && t.nmiPending == false && t.run == .running) = true := by decide

/-- V15: reset wins over NMI and IRQ and clears the NMI latch; memory unchanged. -/
theorem test_reset_V15 :
    endsIn (step { start [(0x0200, 0xEA#8), (0xFFFB, 0x90#8), (0xFFFD, 0x80#8), (0xFFFF, 0xA0#8)] with
      sp := 0x80#8, d := true, inputs := [⟨true, true, true⟩] }) (fun t => t.pc == 0x8000#16 && t.d == false && t.i
      == true && t.nmiPending == false && t.run == .running) = true := by decide

/-! ### Further single steps and operations, calculated by hand from the rules -/

/-- R121: `$80 + $80` overflows to zero with a carry; `$7F + $00 + 1` overflows without one. -/
theorem test_addBinary : addBinary 0x80#8 0x80#8 false = ⟨0x00#8, true, true⟩ ∧
    addBinary 0x7F#8 0x00#8 true = ⟨0x80#8, false, true⟩ := by decide

/-- R238, every bit number: `RMB n` clears bit n of `$FF` and no other. -/
theorem test_rmb_every_bit : ∀ n : Fin 8,
    endsIn (exec (rmb n 0x10#8) (start [(0x0010, 0xFF#8)]))
      (fun t => t.peek 0x0010#16 == 0xFF#8 - BitVec.ofNat 8 (2 ^ n.val)) = true := by decide

/-- R255, every bit number: `SMB n` sets bit n of `$00` and no other. -/
theorem test_smb_every_bit : ∀ n : Fin 8,
    endsIn (exec (smb n 0x10#8) (start [])) (fun t => t.peek 0x0010#16 == BitVec.ofNat 8 (2 ^ n.val)) = true := by
  decide

/-- R131, every bit number: with bit n alone set, `BBR n` does not branch. -/
theorem test_bbr_every_bit : ∀ n : Fin 8,
    endsIn (exec (bbr n 0x10#8 0x05#8) (start [(0x0010, BitVec.ofNat 8 (2 ^ n.val))]))
      (fun t => t.pc == 0x0203#16) = true := by decide

/-- R132, every bit number: with bit n alone set, `BBS n` branches. -/
theorem test_bbs_every_bit : ∀ n : Fin 8,
    endsIn (exec (bbs n 0x10#8 0x05#8) (start [(0x0010, BitVec.ofNat 8 (2 ^ n.val))]))
      (fun t => t.pc == 0x0208#16) = true := by decide

/-- A platform with a device at `$C000` to `$C0FF`, nothing at `$8000` to `$8FFF`, and ROM from `$E000`. -/
def board : State :=
  { start [(0x0010, 0x42#8), (0x0020, 0xFF#8), (0x0021, 0x12#8), (0xFFFB, 0x90#8), (0xFFFD, 0x80#8),
      (0xFFFF, 0xA0#8)] with
    regions := [⟨0xC000#16, 0xC0FF#16, .io⟩, ⟨0x8000#16, 0x8FFF#16, .unmapped⟩, ⟨0xE000#16, 0xFFFF#16, .rom⟩] }

/-- The same with a device all over zero page. -/
def zeroPageDevice : State := { board with regions := [⟨0x0000#16, 0x00FF#16, .io⟩] }

/-- R58: a store to ROM and to Unmapped has no effect, a store to a device is handed over. -/
theorem test_stores_by_region :
    endsIn (exec (.sta (.abs 0xE000#16)) { board with a := 0xAA#8 }) (fun t => t.mem == board.mem) = true ∧
    endsIn (exec (.sta (.abs 0x8FFF#16)) { board with a := 0xAA#8 }) (fun t => t.mem == board.mem) = true ∧
    endsIn (exec (.sta (.abs 0xC0FF#16)) { board with a := 0xAA#8 })
      (fun t => t.ioLog == [.write 0xC0FF#16 0xAA#8]) = true := by decide

/-- R59, R104: a read-modify-write instruction on a device is one read and then one write. -/
theorem test_rmw_on_a_device : ∃ (t : State) (r : Byte), exec (.trb (.abs 0xC000#16)) board = .next t ∧
    t.ioLog = [.write 0xC000#16 r, .read 0xC000#16] := ⟨_, _, rfl, rfl⟩

/-- R59, R104: the same for `SMB 7`, whose write is handed over after its read. -/
theorem test_smb_on_a_device : ∃ (t : State) (r : Byte), exec (.smb7 0x10#8) zeroPageDevice = .next t ∧
    t.ioLog = [.write 0x0010#16 r, .read 0x0010#16] := ⟨_, _, rfl, rfl⟩

/-- R58: an instruction byte at a device or where nothing is: the step is refused by name. -/
theorem test_fetch_refused :
    refusedAs (step { board with pc := 0xC000#16 }) .fetchFromIo = true ∧
    refusedAs (step { board with pc := 0x8000#16 }) .fetchFromUnmapped = true := by decide

/-- R310: the I that CLI leaves lets the IRQ in at the very next boundary, with return address `$0201`. -/
theorem test_cli_then_irq :
    endsIn (step { start [(0x0201, 0xEA#8), (0xFFFF, 0xA0#8)] with
      pc := 0x0201#16, inputs := [⟨false, false, true⟩] })
      (fun t => t.pc == 0xA000#16 && t.peek 0x01FE#16 == 0x01#8 && t.peek 0x01FD#16 == 0x20#8) = true := by decide

/-- The interface of the host: bit 0 is the least significant bit of the first byte. -/
theorem test_decodeTableWord : decodeTableWord 24 0x12347F = some (.bbr7 0x34#8 0x12#8) ∧
    decodeTableWord 8 0x69 = some (.adc (.imm 0x00#8)) ∧ decodeTableWord 24 0x12346C = some (.jmp (.ind 0x1234#16)) := by
  decide

/-- The instruction placed by `withFetchWord` is the one that the next step runs: `LDA #$80` from reset. -/
theorem test_withFetchWord : endsIn (step (State.reset.withFetchWord 16 0x80A9))
    (fun t => t.a == 0x80#8 && t.n && t.pc == 0x0002#16) = true := by decide

/-- R352: the page crossed by `LDA $30FF,X` and by a taken branch costs a cycle each; decimal ADC one more. -/
theorem test_cycle_terms :
    instrCycles (.lda (.mem (.absX 0x30FF#16))) { start [] with x := 0x01#8 } = 5 ∧
    instrCycles (.bne 0x7F#8) { start [] with pc := 0x02F0#16 } = 4 ∧
    instrCycles (.adc (.imm 0x01#8)) { start [] with d := true } = 3 := by decide

/-! ### Witnesses: states and operands that meet the hypotheses of the obligations -/

/-- RAM at `$BFFF`, where the device's window begins one byte on, and at both ends of what lies before it. -/
theorem board_ram : board.isRam 0x0000#16 ∧ board.isRam 0x7FFF#16 ∧ board.isRam 0xBFFF#16 ∧ board.isRam 0xC100#16 ∧
    board.isRam 0xDFFF#16 := ⟨rfl, rfl, rfl, rfl, rfl⟩

/-- The boundaries of the other ranges, and that none of them is RAM. -/
theorem board_edges : board.region 0xC000#16 = .io ∧ board.region 0xC0FF#16 = .io ∧
    board.region 0x8000#16 = .unmapped ∧ board.region 0x8FFF#16 = .unmapped ∧ board.region 0xE000#16 = .rom ∧
    board.region 0xFFFF#16 = .rom ∧ ¬ board.isRam 0xC000#16 ∧ ¬ board.isRam 0x8FFF#16 ∧ ¬ board.isRam 0xE000#16 :=
  ⟨rfl, rfl, rfl, rfl, rfl, rfl, fun h => (by cases h), fun h => (by cases h), fun h => (by cases h)⟩

/-- Memory: RAM or ROM. -/
theorem board_memory : board.isMemory 0x0010#16 ∧ board.isMemory 0x7FFF#16 ∧ board.isMemory 0xE000#16 ∧
    board.isMemory 0xFFFF#16 := ⟨.inl rfl, .inl rfl, .inr rfl, .inr rfl⟩

/-- The whole stack page of `board` is RAM, and its memory is in canonical form. -/
theorem board_stack : board.mem.wf = true ∧ board.isRam (stackAddr board.sp) ∧ board.isRam (stackAddr (board.sp - 1)) ∧
    board.isRam (stackAddr (board.sp - 2)) := ⟨rfl, rfl, rfl, rfl⟩

theorem witness_DecodeOfEncodeGivesTheInstructionBack : (Instr.bbs7 0xFF#8 0x80#8).wellFormed = true ∧
    (Instr.nop3 0x5C#8 0xFF#8 0xFF#8).wellFormed = true := by decide

theorem witness_EncodeOfDecodeGivesTheBytesBack : decode [0x7D#8, 0xFF#8, 0xFF#8, 0xEA#8] =
    .ok (.adc (.mem (.absX 0xFFFF#16)), [0xEA#8]) := by decide

theorem witness_CyclesFollowTheGrid : (Instr.asl (.mem (.absX 0x12FF#16))).wellFormed = true ∧
    encode (.asl (.mem (.absX 0x12FF#16))) = 0x1E#8 :: [0xFF#8, 0x12#8] := by decide

/-- One address of each kind of region, at its boundary. -/
theorem witness_ReadAnswersByRegion : board.isMemory 0xBFFF#16 ∧ board.region 0xC0FF#16 = .io ∧
    board.region 0x8000#16 = .unmapped := ⟨.inl rfl, rfl, rfl⟩

/-- One address of each kind of region, at its boundary. -/
theorem witness_WriteActsByRegion : board.mem.wf = true ∧ board.isRam 0xDFFF#16 ∧ ¬ board.isRam 0xE000#16 ∧
    0x0000#16 ≠ 0xFFFF#16 ∧ board.region 0xC000#16 = .io ∧ board.region 0xFFFF#16 ≠ .io :=
  ⟨rfl, rfl, fun h => (by cases h), by decide, rfl, fun h => (by cases h)⟩

/-- Both bytes at the wrap: `$FFFF` with `$0000`, and `$FF` with `$00` of zero page. -/
theorem witness_SixteenBitReadsAreLittleEndianAndWrap : board.isMemory 0xFFFF#16 ∧
    board.isMemory (BitVec.ofNat 16 (((0xFFFF#16).toNat + 1) % 65536)) ∧ board.isMemory (BitVec.ofNat 16 (0xFF#8).toNat) ∧
    board.isMemory (BitVec.ofNat 16 (((0xFF#8).toNat + 1) % 256)) := ⟨.inr rfl, .inl rfl, .inl rfl, .inl rfl⟩

/-- The three pointer modes with the pointer at `$FF` and `$00`. -/
theorem witness_EffectiveAddressOfEveryMode :
    BitVec.ofNat 16 (((0xFE#8).toNat + ({ board with x := 0x01#8 } : State).x.toNat) % 256) = 0x00FF#16 ∧
    BitVec.ofNat 16 (((0xFE#8).toNat + ({ board with x := 0x01#8 } : State).x.toNat + 1) % 256) = 0x0000#16 ∧
    board.isMemory 0x00FF#16 ∧ board.isMemory 0x0000#16 := ⟨by decide, by decide, .inl rfl, .inl rfl⟩

theorem witness_OperandIsTheImmediateOrTheByteAtTheEffectiveAddress :
    effAddr (.indY 0x20#8) { board with y := 0x01#8 } = (0x1300#16, { board with y := 0x01#8 }) ∧
    ({ board with y := 0x01#8 } : State).isMemory 0x1300#16 := ⟨rfl, .inl rfl⟩

theorem witness_PushStoresThenDecrementsAndPullIncrementsThenReads : board.mem.wf = true ∧
    board.isRam (BitVec.ofNat 16 (256 + board.sp.toNat)) := ⟨rfl, rfl⟩

/-- SP at both ends of the stack page. -/
theorem witness_StackWrapsInPageOne : ({ board with sp := 0x00#8 } : State).sp = 0x00#8 ∧ board.sp = 0xFF#8 ∧
    board.mem.wf = true ∧ board.isRam (stackAddr board.sp) := ⟨rfl, rfl, rfl, rfl⟩

/-- A store to RAM, one to ROM, one to a device. -/
theorem witness_StoresWriteTheByteAtTheEffectiveAddress : board.mem.wf = true ∧
    board.isRam (effAddr (.indY 0x20#8) { board with y := 0x01#8 }).1 ∧
    ¬ board.isRam (effAddr (.abs 0xE000#16) board).1 ∧ board.region (effAddr (.abs 0xC0FF#16) board).1 = .io :=
  ⟨rfl, rfl, fun h => (by cases h), rfl⟩

/-- A memory operand in binary mode. -/
theorem witness_AdcBinaryIsTheSumWithCarryAndSignedOverflow : board.d = false ∧
    (operand (.mem (.zp 0x10#8)) board).1 = 0x42#8 := ⟨rfl, rfl⟩

/-- A memory operand in binary mode. -/
theorem witness_SbcBinaryIsTheDifferenceWithBorrowAndSignedOverflow : board.d = false ∧
    (operand (.mem (.zp 0x10#8)) board).1 = 0x42#8 := ⟨rfl, rfl⟩

/-- Decimal mode: `$99 + $42` of valid digits; and with A no valid BCD. -/
theorem witness_AdcDecimalAddsTwoDigits :
    ({ board with d := true, a := 0x99#8 } : State).d = true ∧
    (operand (.mem (.zp 0x10#8)) { board with d := true, a := 0x99#8 }).1 = 0x42#8 ∧
    validBcd 0x99#8 = true ∧ validBcd 0x42#8 = true ∧ ¬ (validBcd 0x9A#8 = true ∧ validBcd 0x42#8 = true) :=
  ⟨rfl, rfl, by decide, by decide, by decide⟩

/-- Decimal mode: `$00 - $42` of valid digits; and with A no valid BCD. -/
theorem witness_SbcDecimalSubtractsTwoDigits :
    ({ board with d := true } : State).d = true ∧
    (operand (.mem (.zp 0x10#8)) { board with d := true }).1 = 0x42#8 ∧
    validBcd 0x00#8 = true ∧ validBcd 0x42#8 = true ∧ ¬ (validBcd 0xA0#8 = true ∧ validBcd 0x42#8 = true) :=
  ⟨rfl, rfl, by decide, by decide, by decide⟩

/-- The target in RAM, in ROM, and at a device. -/
theorem witness_ShiftsAndRotatesMoveOneBit : board.mem.wf = true ∧ board.isRam (effAddr (.zp 0x10#8) board).1 ∧
    ¬ board.isRam (effAddr (.abs 0xFFFF#16) board).1 ∧ board.region (effAddr (.absX 0xC000#16) board).1 = .io :=
  ⟨rfl, rfl, fun h => (by cases h), rfl⟩

/-- The target in RAM, in ROM, and at a device. -/
theorem witness_IncAndDecCountModulo256AndKeepCarry : board.mem.wf = true ∧
    board.isRam (effAddr (.zpX 0xFF#8) board).1 ∧ ¬ board.isRam (effAddr (.abs 0xE000#16) board).1 ∧
    board.region (effAddr (.abs 0xC0FF#16) board).1 = .io := ⟨rfl, rfl, fun h => (by cases h), rfl⟩

/-- The byte in RAM, in ROM and at the last address of a device, and both ends of the bit numbers. -/
theorem witness_TestAndSetOrResetBits : board.mem.wf = true ∧ board.isRam (effAddr (.zp 0x10#8) board).1 ∧ 0 < 8 ∧
    7 < 8 ∧ ¬ board.isRam (effAddr (.abs 0xE000#16) board).1 ∧ board.region (effAddr (.abs 0xC0FF#16) board).1 = .io :=
  ⟨rfl, rfl, by decide, by decide, fun h => (by cases h), rfl⟩

/-- Zero page in RAM; in ROM on a platform that has ROM everywhere; a device at both its ends. -/
theorem witness_RmbAndSmbChangeOneBit : board.mem.wf = true ∧ board.isRam (zext 0xFF#8) ∧ 0 < 8 ∧ 7 < 8 ∧
    ¬ ({ board with regions := [⟨0x0000#16, 0xFFFF#16, .rom⟩] } : State).isRam (zext 0xFF#8) ∧
    zeroPageDevice.region (zext 0x00#8) = .io ∧ zeroPageDevice.region (zext 0xFF#8) = .io :=
  ⟨rfl, rfl, by decide, by decide, fun h => (by cases h), rfl, rfl⟩

theorem witness_BbrAndBbsBranchOnOneBit : board.isMemory (zext 0x00#8) ∧ board.isMemory (zext 0xFF#8) :=
  ⟨.inl rfl, .inl rfl⟩

/-- A pointer at `$FFFF`, and a pointer that X carries from `$FFFF` to `$0000`. -/
theorem witness_JumpsGoToTheAddressOrThroughThePointer : board.isMemory 0xFFFF#16 ∧ board.isMemory (0xFFFF#16 + 1) ∧
    (0x0000#16).toNat = ((0xFFFF#16).toNat + ({ board with x := 0x01#8 } : State).x.toNat) % 65536 ∧
    board.isMemory 0x0000#16 ∧ board.isMemory (0x0000#16 + 1) :=
  ⟨.inr rfl, .inl rfl, by decide, .inl rfl, .inl rfl⟩

/-- SP at `$00`, so that the second push wraps. -/
theorem witness_JsrPushesTheAddressOfItsLastByte : ({ board with sp := 0x00#8 } : State).mem.wf = true ∧
    ({ board with sp := 0x00#8 } : State).isRam (stackAddr 0x00#8) ∧
    ({ board with sp := 0x00#8 } : State).isRam (stackAddr (0x00#8 - 1)) := ⟨rfl, rfl, rfl⟩

/-- The state that `JSR $1234` leaves, with the accumulator changed by the subroutine. -/
theorem witness_RtsReturnsPastTheJsr : ∃ u t : State, board.mem.wf = true ∧ board.isRam (stackAddr board.sp) ∧
    board.isRam (stackAddr (board.sp - 1)) ∧ exec (.jsr 0x1234#16) board = .next u ∧ t.a ≠ u.a ∧ t.sp = u.sp ∧
    t.regions = u.regions ∧ t.peek (stackAddr board.sp) = u.peek (stackAddr board.sp) ∧
    t.peek (stackAddr (board.sp - 1)) = u.peek (stackAddr (board.sp - 1)) ∧
    board.isMemory (stackAddr (board.sp + 1)) ∧ board.isMemory (stackAddr (board.sp + 2)) :=
  ⟨(board.push16 0x0202#16).jump 0x1234#16, { (board.push16 0x0202#16).jump 0x1234#16 with a := 0x01#8 },
    rfl, rfl, rfl, rfl, by decide, rfl, rfl, rfl, rfl, .inl rfl, .inl rfl⟩

/-- SP at both ends: the write at `$0100` and at `$01FF`. -/
theorem witness_PushesStoreTheByteAndDecrementSp : board.mem.wf = true ∧ board.isRam (stackAddr 0x00#8) ∧
    board.isRam (stackAddr 0xFF#8) := ⟨rfl, rfl, rfl⟩

/-- SP at both ends: the read at `$0100` and at `$01FF`. -/
theorem witness_PullsReadTheByteAboveSp : board.isMemory (stackAddr (0xFF#8 + 1)) ∧
    board.isMemory (stackAddr (0xFE#8 + 1)) ∧ board.peek (stackAddr (0xFF#8 + 1)) = 0x00#8 :=
  ⟨.inl rfl, .inl rfl, rfl⟩

/-- The pushes wrap from `$0100` to `$01FF`; the vector stands in ROM. -/
theorem witness_BrkTakesTheInterruptSequenceWithTheBreakBit : ∃ s : State, s.sp = 0x01#8 ∧ s.mem.wf = true ∧
    s.isRam (stackAddr s.sp) ∧ s.isRam (stackAddr (s.sp - 1)) ∧ s.isRam (stackAddr (s.sp - 2)) ∧
    s.isMemory 0xFFFE#16 ∧ s.isMemory 0xFFFF#16 :=
  ⟨{ board with sp := 0x01#8 }, rfl, rfl, rfl, rfl, rfl, .inr rfl, .inr rfl⟩

theorem witness_RtiPullsTheFlagsAndThenTheAddress : board.isMemory (stackAddr (board.sp + 1)) ∧
    board.isMemory (stackAddr (board.sp + 2)) ∧ board.isMemory (stackAddr (board.sp + 3)) :=
  ⟨.inl rfl, .inl rfl, .inl rfl⟩

/-- A handler that changed the accumulator and cleared I. -/
theorem witness_RtiUndoesTheInterruptSequence : ∃ t : State, board.mem.wf = true ∧ board.isRam (stackAddr board.sp) ∧
    board.isRam (stackAddr (board.sp - 1)) ∧ board.isRam (stackAddr (board.sp - 2)) ∧
    t.sp = (board.interrupt 0xFFFE#16 false).sp ∧ t.a ≠ board.a ∧ t.i = false ∧ t.regions = board.regions ∧
    t.peek (stackAddr board.sp) = (board.interrupt 0xFFFE#16 false).peek (stackAddr board.sp) ∧
    t.peek (stackAddr (board.sp - 1)) = (board.interrupt 0xFFFE#16 false).peek (stackAddr (board.sp - 1)) ∧
    t.peek (stackAddr (board.sp - 2)) = (board.interrupt 0xFFFE#16 false).peek (stackAddr (board.sp - 2)) :=
  ⟨{ board.interrupt 0xFFFE#16 false with a := 0x01#8, i := false },
    rfl, rfl, rfl, rfl, rfl, by decide, rfl, rfl, rfl, rfl, rfl⟩

/-- CLC lists no register: A, X, Y and SP all meet the premise. -/
theorem witness_RegistersNotListedAreUntouched : exec .clc board = .next { board with pc := 0x0201#16 } ∧
    Field.a ∉ footprint .clc ∧ Field.x ∉ footprint .clc ∧ Field.y ∉ footprint .clc ∧ Field.sp ∉ footprint .clc :=
  ⟨rfl, by decide, by decide, by decide, by decide⟩

/-- NOP lists no flag: all six meet the premise. -/
theorem witness_FlagsNotListedAreUntouched : exec .nop board = .next { board with pc := 0x0201#16 } ∧
    Field.n ∉ footprint .nop ∧ Field.v ∉ footprint .nop ∧ Field.d ∉ footprint .nop ∧ Field.i ∉ footprint .nop ∧
    Field.z ∉ footprint .nop ∧ Field.c ∉ footprint .nop := ⟨rfl, by decide, by decide, by decide, by decide, by decide, by decide⟩

/-- A push stores at `$01FF`: its two neighbours are outside. -/
theorem witness_MemoryOutsideTheStoredBytesIsUntouched : (∃ t, exec .pha board = .next t) ∧
    0x01FF#16 ∈ storesTo .pha board ∧ 0x0200#16 ∉ storesTo .pha board ∧ 0x01FE#16 ∉ storesTo .pha board :=
  ⟨⟨_, rfl⟩, by decide, by decide, by decide⟩

/-- An instruction that is none of the three, on a state whose whole address space is RAM. -/
theorem witness_InstructionsLeaveTheRestOfTheMachineAlone : (∃ t, exec .php (start []) = .next t) ∧ Instr.php ≠ .wai ∧
    Instr.php ≠ .stp ∧ Instr.php ≠ .brk ∧ ∀ b : Word, (start []).isMemory b :=
  ⟨⟨_, rfl⟩, by decide, by decide, by decide, fun _ => .inl rfl⟩

theorem witness_InstructionsDoNotLookAtTheInputs : ∃ t, exec (.adc (.mem (.indY 0x20#8))) board = .next t :=
  ⟨_, rfl⟩

/-- `JMP $1234` at `$7FFD`, the last three bytes of RAM before the hole, with the IRQ line low but masked. -/
theorem witness_StepRunsTheDecodedInstruction : ∃ s : State, s.onlyExecutes ∧ s.lines.irqLow = true ∧
    (∀ k : Nat, k < 3 → s.isMemory (s.pc + BitVec.ofNat 16 k)) ∧
    decode [s.peek s.pc, s.peek (s.pc + 1), s.peek (s.pc + 2)] = .ok (.jmp (.abs 0x1234#16), []) ∧
    (Instr.jmp (.abs 0x1234#16)).len = 3 :=
  ⟨{ board with mem := [(0x7FFD, 0x4C#8), (0x7FFE, 0x34#8), (0x7FFF, 0x12#8)], pc := 0x7FFD#16, i := true,
                inputs := [⟨false, false, true⟩] },
    ⟨rfl, rfl, rfl, rfl, fun _ => rfl⟩, rfl,
    fun k hk => match k, hk with
      | 0, _ => .inl rfl
      | 1, _ => .inl rfl
      | 2, _ => .inl rfl,
    rfl, rfl⟩

/-- Reset while stopped, with the vector in ROM. -/
theorem witness_ResetSequenceLoadsPcFromItsVector : ∃ s : State, s.run = .stopped ∧ s.lines.resb = true ∧
    s.isMemory 0xFFFC#16 ∧ s.isMemory 0xFFFD#16 :=
  ⟨{ board with run := .stopped, inputs := [⟨true, true, true⟩] }, rfl, rfl, .inr rfl, .inr rfl⟩

/-- An edge now, with the IRQ line low, I = 1 and the processor waiting; and a latched NMI. -/
theorem witness_NmiTakesPrecedenceOverIrqAndIsNotMasked : ∃ s u : State,
    (s.lines.resb = false ∧ s.run ≠ .stopped ∧ s.lines.nmiEdge = true ∧ s.i = true ∧ s.mem.wf = true ∧
      s.isRam (stackAddr s.sp) ∧ s.isRam (stackAddr (s.sp - 1)) ∧ s.isRam (stackAddr (s.sp - 2)) ∧
      s.isMemory 0xFFFA#16 ∧ s.isMemory 0xFFFB#16 ∧ 0x0200#16 ≠ stackAddr s.sp ∧ 0x0200#16 ≠ stackAddr (s.sp - 1) ∧
      0x0200#16 ≠ stackAddr (s.sp - 2)) ∧
    (u.lines.resb = false ∧ u.run ≠ .stopped ∧ u.nmiPending = true) :=
  ⟨{ board with run := .waiting, i := true, inputs := [⟨false, true, true⟩] }, { board with nmiPending := true },
    ⟨rfl, by decide, rfl, rfl, rfl, rfl, rfl, rfl, .inr rfl, .inr rfl, by decide, by decide, by decide⟩,
    ⟨rfl, by decide, rfl⟩⟩

/-- The IRQ line low and I = 0; SP so low that the pushes wrap. -/
theorem witness_IrqIsTakenWhenUnmasked : ∃ s : State, s.lines.resb = false ∧ s.run ≠ .stopped ∧ s.nmiPending = false ∧
    s.lines.nmiEdge = false ∧ s.lines.irqLow = true ∧ s.i = false ∧ s.sp = 0x01#8 ∧ s.mem.wf = true ∧
    s.isRam (stackAddr s.sp) ∧ s.isRam (stackAddr (s.sp - 1)) ∧ s.isRam (stackAddr (s.sp - 2)) ∧
    s.isMemory 0xFFFE#16 ∧ s.isMemory 0xFFFF#16 ∧ 0x0010#16 ≠ stackAddr s.sp ∧ 0x0010#16 ≠ stackAddr (s.sp - 1) ∧
    0x0010#16 ≠ stackAddr (s.sp - 2) :=
  ⟨{ board with sp := 0x01#8, inputs := [⟨false, false, true⟩] }, rfl, by decide, rfl, rfl, rfl, rfl, rfl, rfl,
    rfl, rfl, rfl, .inr rfl, .inr rfl, by decide, by decide, by decide⟩

theorem witness_MaskedIrqLineIsIgnoredWhileRunning : ({ board with i := true } : State).i = true ∧
    ({ board with i := true } : State).run ≠ .waiting := by decide

/-- Stopped; waiting with no input; waiting with the line low and masked. -/
theorem witness_WaitingAndStoppedKeepEverything : ∃ s u v : State,
    (s.lines.resb = false ∧ s.run = .stopped) ∧
    (u.lines.resb = false ∧ u.run = .waiting ∧ u.nmiPending = false ∧ u.lines.nmiEdge = false ∧
      u.lines.irqLow = false) ∧
    (v.lines.resb = false ∧ v.run = .waiting ∧ v.nmiPending = false ∧ v.lines.nmiEdge = false ∧
      v.lines.irqLow = true ∧ v.i = true) :=
  ⟨{ board with run := .stopped, inputs := [⟨false, true, true⟩] }, { board with run := .waiting },
    { board with run := .waiting, i := true, inputs := [⟨false, false, true⟩] },
    ⟨rfl, rfl⟩, ⟨rfl, rfl, rfl, rfl, rfl⟩, ⟨rfl, rfl, rfl, rfl, rfl, rfl⟩⟩

theorem witness_StepKeepsMemoryCanonical : (start [(0x0200, 0x48#8)]).mem.wf = true ∧
    endsIn (step (start [(0x0200, 0x48#8)])) (fun _ => true) = true := by decide

/-- A step that stores in ROM space: `STA $E000`. -/
theorem witness_StepKeepsTheMapAndEveryByteOutsideRam : ∃ s : State, ¬ s.isRam 0xE000#16 ∧
    endsIn (step s) (fun _ => true) = true :=
  ⟨{ board with mem := [(0x0200, 0x8D#8), (0x0202, 0xE0#8)] }, fun h => (by cases h), by decide⟩

/-- The operand byte of a two-byte instruction at the last byte before the device; the opcode byte itself where nothing
is. -/
theorem witness_OnlyTheFetchIsRefused : ∃ s u : State, step s = .refused .fetchFromIo ∧ s.region s.pc = .ram ∧
    lengthCell (s.peek s.pc) = 2 ∧ step u = .refused .fetchFromUnmapped ∧ u.region u.pc = .unmapped :=
  ⟨{ board with mem := [(0xBFFF, 0xA9#8)], pc := 0xBFFF#16 }, { board with pc := 0x8000#16 }, rfl, rfl, rfl, rfl, rfl⟩

/-- R80: only the bytes of the instruction's own length are fetched, so NOP at the last byte before the device runs. -/
theorem test_fetch_stops_at_len : endsIn (step { board with mem := [(0xBFFF, 0xEA#8)], pc := 0xBFFF#16 })
    (fun t => t.pc == 0xC000#16) = true := by decide

theorem witness_RunsInMemoryNeverStop : ∀ b : Word, (start []).isMemory b := fun _ => .inl rfl

end Sys2Proof.Tests
end

/-! The stack address as a number, and O11: a push and a pull written with that number. -/

namespace Sys2Proof.Machine

/-- `hi ++ lo` as a number (R6). -/
theorem word_toNat (hi lo : Byte) : (word hi lo).toNat = 256 * hi.toNat + lo.toNat := by
  have hlo : lo.toNat < 2 ^ 8 := lo.isLt
  rw [word, BitVec.toNat_append, ← Nat.shiftLeft_add_eq_or_of_lt hlo, Nat.shiftLeft_eq, Nat.mul_comm]

/-- The stack page is page one: `$01 ++ SP` is the number `$0100 + SP` (R60). -/
theorem stackAddr_eq_ofNat (sp : Byte) : stackAddr sp = BitVec.ofNat 16 (256 + sp.toNat) := by
  have stackAddr_toNat : (stackAddr sp).toNat = 256 + sp.toNat := word_toNat 0x01#8 sp
  rw [← stackAddr_toNat, BitVec.ofNat_toNat, BitVec.setWidth_eq]

/-- A byte pushed into RAM is found at the SP before the push (R61). -/
theorem State.push8_peek_stackAddr (v : Byte) {s : State} (hwf : s.mem.wf = true) (hram : s.isRam (stackAddr s.sp)) :
    (s.push8 v).peek (stackAddr s.sp) = v := by
  rw [State.push8_peek v hwf, if_pos ⟨rfl, hram⟩]

/-- Settles O11: with `$01 ++ SP` read as `$0100 + SP`, the push clauses are `push8_spec` and the byte in RAM; the pull
reads, by its definition, at the incremented SP, and a read writes neither SP nor memory. -/
theorem pushStoresThenDecrementsAndPullIncrementsThenReads :
    Obligations.PushStoresThenDecrementsAndPullIncrementsThenReads := by
  refine ⟨fun v s => ?push, fun s => ?pull⟩
  case push =>
    rw [← stackAddr_eq_ofNat]
    exact ⟨State.push8_spec v s, State.push8_peek_stackAddr v⟩
  case pull =>
    rw [← stackAddr_eq_ofNat]
    exact ⟨rfl, State.pull8_sp s, State.pull8_mem s⟩

end Sys2Proof.Machine

/-! LEN of the decoded instruction (R84): the operand bytes have no part in it, so O4 is a fact about the 256 opcode
bytes. -/

namespace Sys2Proof.Machine

/-- The length of a decoded instruction is the opcode's alone: no cell of the opcode map (R110) chooses its operand form
by an operand byte. -/
theorem decodeOpcode_len_eq_of_opcode (op b1 b2 : Byte) : (decodeOpcode op b1 b2).len = (decodeOpcode op 0 0).len := by
  unfold decodeOpcode
  -- The row is chosen by the high nibble, the cell in it by the low one.
  split <;>
    simp only [decodeRow0, decodeRow1, decodeRow2, decodeRow3, decodeRow4, decodeRow5, decodeRow6, decodeRow7,
      decodeRow8, decodeRow9, decodeRowA, decodeRowB, decodeRowC, decodeRowD, decodeRowE, decodeRowF] <;>
    split <;> rfl

/-- The column rules that the decoder takes its bytes by are the grid of R84. -/
theorem opcodeLength_eq_lengthCell (op : Byte) : opcodeLength op = lengthCell op := by
  revert op
  decide

/-- The opcode map agrees with the grid of R84, with the operand bytes set to 0. -/
theorem decodeOpcode_zero_len_eq_lengthCell (op : Byte) : (decodeOpcode op 0 0).len = lengthCell op := by
  revert op
  decide

/-- Settles O4: the decoder's column rules are the grid, and so is the length of the decoded instruction, which the
operand bytes do not change. -/
theorem lengthOfEveryOpcodeByte : Obligations.LengthOfEveryOpcodeByte := fun op b1 b2 =>
  ⟨opcodeLength_eq_lengthCell op,
    (decodeOpcode_len_eq_of_opcode op b1 b2).trans (decodeOpcode_zero_len_eq_lengthCell op)⟩

end Sys2Proof.Machine

/-! What a one-byte instruction on registers and flags answers, and O35: the instructions of one flag. -/

namespace Sys2Proof.Machine

/-- The one-byte instructions of the shape `implied` answer their action on the state, with PC one further (R36). -/
theorem implied_spec (f : State → State) (s : State) : implied f s = .next { f s with pc := (f s).pc + 1 } := rfl

/-- Settles O35: each of the seven is `implied` with the write of its one flag, which leaves PC to `implied_spec`; the
opcode byte and the cycle count are the rows of `encode` and `instrCycles`. -/
theorem flagInstructionsWriteOneFlag : Obligations.FlagInstructionsWriteOneFlag := by
  intro s
  refine ⟨⟨rfl, rfl, ?clc⟩, ⟨rfl, rfl, ?cld⟩, ⟨rfl, rfl, ?cli⟩, ⟨rfl, rfl, ?clv⟩, ⟨rfl, rfl, ?sec⟩, ⟨rfl, rfl, ?sed⟩,
    ⟨rfl, rfl, ?sei⟩⟩
  case clc => exact implied_spec (fun t => { t with c := false }) s
  case cld => exact implied_spec (fun t => { t with d := false }) s
  case cli => exact implied_spec (fun t => { t with i := false }) s
  case clv => exact implied_spec (fun t => { t with v := false }) s
  case sec => exact implied_spec (fun t => { t with c := true }) s
  case sed => exact implied_spec (fun t => { t with d := true }) s
  case sei => exact implied_spec (fun t => { t with i := true }) s

end Sys2Proof.Machine

/-! N and Z of a byte as numbers (R33), and O26: the four instructions that count an index register. -/

namespace Sys2Proof.Machine

/-- Bit 7 is set exactly in the bytes from 128 on (R33). -/
theorem byte_getLsbD_seven_iff (v : Byte) : v.getLsbD 7 = true ↔ 128 ≤ v.toNat := by
  have msb_is_bit_seven : v.msb = v.getLsbD 7 := BitVec.msb_eq_getLsbD_last v
  rw [← msb_is_bit_seven, BitVec.msb_eq_decide, decide_eq_true_iff]

/-- A one-byte instruction whose action ends with `SetNZ` of a byte: beside that action it writes N, Z and PC alone, and
N and Z are those of the byte. -/
theorem implied_setNZ_spec (v : State → Byte) (f : State → State) (s : State) :
    ∃ n z, implied (fun t => (f t).setNZ (v t)) s = .next { f s with n := n, z := z, pc := (f s).pc + 1 } ∧
      (n = true ↔ 128 ≤ (v s).toNat) ∧ (z = true ↔ v s = 0x00#8) :=
  ⟨(v s).getLsbD 7, v s == 0, implied_spec _ s, byte_getLsbD_seven_iff (v s), beq_iff_eq⟩

/-- Settles O26: each of the four is `implied` with `SetNZ` of the counted register after its write, which
`implied_setNZ_spec` answers; the opcode byte and the cycle count are the rows of `encode` and `instrCycles`. -/
theorem indexRegistersCountModulo256 : Obligations.IndexRegistersCountModulo256 := by
  intro s
  refine ⟨⟨rfl, rfl, ?inx⟩, ⟨rfl, rfl, ?iny⟩, ⟨rfl, rfl, ?dex⟩, ⟨rfl, rfl, ?dey⟩⟩
  case inx => exact implied_setNZ_spec (fun t => t.x + 1) (fun t => { t with x := t.x + 1 }) s
  case iny => exact implied_setNZ_spec (fun t => t.y + 1) (fun t => { t with y := t.y + 1 }) s
  case dex => exact implied_setNZ_spec (fun t => t.x - 1) (fun t => { t with x := t.x - 1 }) s
  case dey => exact implied_setNZ_spec (fun t => t.y - 1) (fun t => { t with y := t.y - 1 }) s

end Sys2Proof.Machine

/-! O34: the six transfers between registers. -/

namespace Sys2Proof.Machine

/-- Settles O34: five of the six are `implied` with `SetNZ` of the source after the copy, which `implied_setNZ_spec`
answers; TXS is `implied` with the copy alone (R285), so `implied_spec` shows that it keeps N and Z. The opcode byte and
the cycle count are the rows of `encode` and `instrCycles`. -/
theorem transfersCopyARegister : Obligations.TransfersCopyARegister := by
  intro s
  refine ⟨⟨rfl, rfl, ?tax⟩, ⟨rfl, rfl, ?tay⟩, ⟨rfl, rfl, ?txa⟩, ⟨rfl, rfl, ?tya⟩, ⟨rfl, rfl, ?tsx⟩, ⟨rfl, rfl, ?txs⟩⟩
  case tax => exact implied_setNZ_spec (fun t => t.a) (fun t => { t with x := t.a }) s
  case tay => exact implied_setNZ_spec (fun t => t.a) (fun t => { t with y := t.a }) s
  case txa => exact implied_setNZ_spec (fun t => t.x) (fun t => { t with a := t.x }) s
  case tya => exact implied_setNZ_spec (fun t => t.y) (fun t => { t with a := t.y }) s
  case tsx => exact implied_setNZ_spec (fun t => t.sp) (fun t => { t with x := t.sp }) s
  case txs => exact implied_spec (fun t => { t with sp := t.x }) s

end Sys2Proof.Machine

/-! The frame of an instruction (R42, R25 to R32, R104): what it may write, and that it leaves everything else as it was.
Each operation and each shape of instruction has its frame once; `exec_frame` puts them together over all 101 mnemonics, and
O14, O43, O44, O45 and O46 are its parts. -/

namespace Sys2Proof.Machine

/-- What stands as it did from `s` to `t`: every register and flag outside `written`, every byte outside `stored` and every
byte that is not RAM, the run state unless `setsRun`, and all that the platform owns. Where every address is RAM or ROM no
device sees an access and no free value is drawn. -/
structure Frame (written : List Field) (stored : List Word) (setsRun : Prop) (s t : State) : Prop where
  a : .a ∉ written → t.a = s.a
  x : .x ∉ written → t.x = s.x
  y : .y ∉ written → t.y = s.y
  sp : .sp ∉ written → t.sp = s.sp
  n : .n ∉ written → t.n = s.n
  v : .v ∉ written → t.v = s.v
  d : .d ∉ written → t.d = s.d
  i : .i ∉ written → t.i = s.i
  z : .z ∉ written → t.z = s.z
  c : .c ∉ written → t.c = s.c
  run : ¬ setsRun → t.run = s.run
  nmiPending : t.nmiPending = s.nmiPending
  regions : t.regions = s.regions
  inputs : t.inputs = s.inputs
  cycles : t.cycles = s.cycles
  peek_outside : ∀ e, e ∉ stored → t.peek e = s.peek e
  peek_of_not_ram : ∀ e, ¬ s.isRam e → t.peek e = s.peek e
  wf : s.mem.wf = true → t.mem.wf = true
  quiet : (∀ b, s.isMemory b) → t.ioLog = s.ioLog ∧ t.draws = s.draws

namespace Frame

variable {w w' : List Field} {l l' : List Word} {r r' : Prop} {s t u : State}

/-- A frame that allows more. -/
theorem mono (h : Frame w l r s t) (hw : w ⊆ w') (hl : l ⊆ l') (hr : r → r') : Frame w' l' r' s t where
  a k := h.a (fun m => k (hw m))
  x k := h.x (fun m => k (hw m))
  y k := h.y (fun m => k (hw m))
  sp k := h.sp (fun m => k (hw m))
  n k := h.n (fun m => k (hw m))
  v k := h.v (fun m => k (hw m))
  d k := h.d (fun m => k (hw m))
  i k := h.i (fun m => k (hw m))
  z k := h.z (fun m => k (hw m))
  c k := h.c (fun m => k (hw m))
  run k := h.run (fun m => k (hr m))
  nmiPending := h.nmiPending
  regions := h.regions
  inputs := h.inputs
  cycles := h.cycles
  peek_outside e k := h.peek_outside e (fun m => k (hl m))
  peek_of_not_ram := h.peek_of_not_ram
  wf := h.wf
  quiet := h.quiet

/-- One operation after another: what neither writes is left. -/
theorem trans (h : Frame w l r s t) (h' : Frame w' l' r' t u) : Frame (w ++ w') (l ++ l') (r ∨ r') s u where
  a k := by rw [List.mem_append, not_or] at k; rw [h'.a k.2, h.a k.1]
  x k := by rw [List.mem_append, not_or] at k; rw [h'.x k.2, h.x k.1]
  y k := by rw [List.mem_append, not_or] at k; rw [h'.y k.2, h.y k.1]
  sp k := by rw [List.mem_append, not_or] at k; rw [h'.sp k.2, h.sp k.1]
  n k := by rw [List.mem_append, not_or] at k; rw [h'.n k.2, h.n k.1]
  v k := by rw [List.mem_append, not_or] at k; rw [h'.v k.2, h.v k.1]
  d k := by rw [List.mem_append, not_or] at k; rw [h'.d k.2, h.d k.1]
  i k := by rw [List.mem_append, not_or] at k; rw [h'.i k.2, h.i k.1]
  z k := by rw [List.mem_append, not_or] at k; rw [h'.z k.2, h.z k.1]
  c k := by rw [List.mem_append, not_or] at k; rw [h'.c k.2, h.c k.1]
  run k := by rw [not_or] at k; rw [h'.run k.2, h.run k.1]
  nmiPending := h'.nmiPending.trans h.nmiPending
  regions := h'.regions.trans h.regions
  inputs := h'.inputs.trans h.inputs
  cycles := h'.cycles.trans h.cycles
  peek_outside e k := by rw [List.mem_append, not_or] at k; rw [h'.peek_outside e k.2, h.peek_outside e k.1]
  peek_of_not_ram e k := by
    rw [h'.peek_of_not_ram e (by rwa [State.isRam, State.region_congr h.regions]), h.peek_of_not_ram e k]
  wf k := h'.wf (h.wf k)
  quiet k := by
    obtain ⟨hlog, hdraws⟩ := h.quiet k
    obtain ⟨hlog', hdraws'⟩ := h'.quiet fun b => by rw [State.isMemory, State.region_congr h.regions]; exact k b
    exact ⟨hlog'.trans hlog, hdraws'.trans hdraws⟩

/-- One operation after another that allow the same. -/
theorem seq (h : Frame w l r s t) (h' : Frame w l r t u) : Frame w l r s u :=
  (h.trans h').mono (by simp) (by simp) (by simp)

theorem refl (s : State) : Frame w l r s s := by
  constructor <;> simp

end Frame

/-! ### The frames of the operations -/

theorem State.load_frame (b : Word) (s : State) : Frame [] [] False s (s.load b).2 := by
  constructor
  case quiet => intro h; rw [State.load_of_memory (h b)]; exact ⟨rfl, rfl⟩
  all_goals simp

theorem State.store_frame (b : Word) (v : Byte) (s : State) : Frame [] [b] False s (s.store b v) := by
  constructor
  case peek_outside => intro e he; exact State.store_peek_ne v s (by simpa using he)
  case peek_of_not_ram =>
    intro e he
    by_cases hb : e = b
    · exact State.store_peek_of_not_ram v (hb ▸ he) e
    · exact State.store_peek_ne v s hb
  case wf => exact State.store_wf
  case quiet =>
    intro h
    refine ⟨?_, State.store_draws b v s⟩
    unfold State.store
    rcases h b with hb | hb <;> rw [hb]
  all_goals simp

theorem State.jump_frame (p : Word) (s : State) : Frame [] [] False s (s.jump p) := by
  constructor <;> simp [State.peek]

theorem State.setRun_frame (q : RunState) (s : State) : Frame [] [] True s (s.setRun q) := by
  constructor <;> simp [State.peek]

theorem State.setSp_frame (q : Byte) (s : State) : Frame [.sp] [] False s { s with sp := q } := by
  constructor <;> simp [State.peek]

theorem State.srLoad_frame (q : Byte) (s : State) : Frame [.n, .v, .d, .i, .z, .c] [] False s (s.srLoad q) := by
  constructor <;> simp [State.peek]

theorem State.setNZ_frame (q : Byte) (s : State) : Frame [.n, .z] [] False s (s.setNZ q) := by
  constructor <;> simp [State.peek]


theorem State.read16_frame (b : Word) (s : State) : Frame [] [] False s (s.read16 b).2 :=
  (State.load_frame b s).seq (State.load_frame (b + 1) _)

theorem State.read16zp_frame (z : Byte) (s : State) : Frame [] [] False s (s.read16zp z).2 :=
  (State.load_frame (zext z) s).seq (State.load_frame (zext (z + 1)) _)

theorem State.push8_frame (q : Byte) (s : State) : Frame [.sp] [stackAddr s.sp] False s (s.push8 q) :=
  ((State.store_frame _ q s).trans (State.setSp_frame _ _)).mono (by simp) (by simp) (by simp)

theorem State.push16_frame (q : Word) (s : State) :
    Frame [.sp] [stackAddr s.sp, stackAddr (s.sp - 1)] False s (s.push16 q) :=
  ((State.push8_frame (hi q) s).trans (State.push8_frame (lo q) _)).mono (by simp) (by simp) (by simp)

theorem State.pull8_frame (s : State) : Frame [.sp] [] False s s.pull8.2 :=
  ((State.setSp_frame _ s).trans (State.load_frame _ _)).mono (by simp) (by simp) (by simp)

theorem State.pull16_frame (s : State) : Frame [.sp] [] False s s.pull16.2 :=
  (State.pull8_frame s).seq (State.pull8_frame _)

theorem State.setID_frame (p q : Bool) (s : State) : Frame [.d, .i] [] False s { s with i := p, d := q } := by
  constructor <;> simp [State.peek]

/-- The state of an interrupt sequence (R306) before its vector is read: PC and SR are pushed, I is set and D cleared. -/
def State.interrupted (brk : Bool) (s : State) : State :=
  { (s.push16 s.pc).push8 ((s.push16 s.pc).srImage brk) with i := true, d := false }

theorem State.interrupt_eq (vector : Word) (brk : Bool) (s : State) :
    s.interrupt vector brk =
      State.setRun .running (((s.interrupted brk).read16 vector).2.jump ((s.interrupted brk).read16 vector).1) := rfl

theorem State.interrupted_frame (brk : Bool) (s : State) :
    Frame [.sp, .d, .i] [stackAddr s.sp, stackAddr (s.sp - 1), stackAddr (s.sp - 2)] False s (s.interrupted brk) := by
  have hsp : s.sp - 1#8 - 1#8 = s.sp - 2#8 := by bv_omega
  have pushes := (State.push16_frame s.pc s).trans (State.push8_frame ((s.push16 s.pc).srImage brk) _)
  exact (pushes.trans (State.setID_frame true false _)).mono (by simp) (by simp [hsp]) (by simp)

theorem State.interrupt_frame (vector : Word) (brk : Bool) (s : State) :
    Frame [.sp, .d, .i] [stackAddr s.sp, stackAddr (s.sp - 1), stackAddr (s.sp - 2)] True s
      (s.interrupt vector brk) := by
  rw [State.interrupt_eq]
  exact ((((State.interrupted_frame brk s).trans (State.read16_frame vector _)).trans (State.jump_frame _ _)).trans
    (State.setRun_frame .running _)).mono (by simp) (by simp) (by simp)

theorem State.returnFromInterrupt_frame (s : State) :
    Frame [.sp, .n, .v, .d, .i, .z, .c] [] False s s.returnFromInterrupt :=
  (((State.pull8_frame s).trans (State.srLoad_frame _ _)).trans
    ((State.pull16_frame _).trans (State.jump_frame _ _))).mono (by simp) (by simp) (by simp)

theorem effAddr_frame (m : AddrMode) (s : State) : Frame [] [] False s (effAddr m s).2 := by
  cases m with
  | indX z => exact State.read16zp_frame (z + s.x) s
  | indY z => exact State.read16zp_frame z s
  | ind z => exact State.read16zp_frame z s
  | zp | zpX | zpY | abs | absX | absY => exact Frame.refl s

theorem operand_frame (q : Source) (s : State) : Frame [] [] False s (operand q s).2 := by
  cases q with
  | imm b => exact Frame.refl s
  | mem m => exact (effAddr_frame m s).seq (State.load_frame _ _)

/-! ### The frames of the shapes of instruction -/

/-- An outcome that is a next state, with its frame. -/
def Framed (w : List Field) (l : List Word) (r : Prop) (s : State) (o : Host.Outcome State Fault Refusal) : Prop :=
  ∃ t, o = .next t ∧ Frame w l r s t

theorem Frame.framed_advance {w : List Field} {l : List Word} {r : Prop} {s t : State} (h : Frame w l r s t) (k : Nat) :
    Framed w l r s (.next (t.advance k)) :=
  ⟨_, rfl, (h.trans (State.jump_frame _ t)).mono (by simp) (by simp) (by simp)⟩

theorem implied_framed {w : List Field} {l : List Word} {r : Prop} {f : State → State} {s : State}
    (hf : Frame w l r s (f s)) : Framed w l r s (implied f s) :=
  hf.framed_advance 1

theorem withOperand_framed {w : List Field} {r : Prop} {f : Byte → State → State}
    (hf : ∀ b t, Frame w [] r t (f b t)) (q : Source) (s : State) : Framed w [] r s (withOperand q f s) :=
  Frame.framed_advance (((operand_frame q s).trans (hf _ _)).mono (by simp) (by simp) (by simp)) _

theorem storeMem_framed (m : AddrMode) (q : Byte) (s : State) :
    Framed [] [(effAddr m s).1] False s (storeMem m q s) :=
  Frame.framed_advance (((effAddr_frame m s).trans (State.store_frame _ q _)).mono (by simp) (by simp) (by simp)) _

theorem State.setTest_frame (q : Byte) (s : State) : Frame [.z] [] False s (s.setTest q) := by
  constructor <;> simp [State.peek]

theorem modifyBits_framed {w : List Field} (m : AddrMode) (test : Bool) (f : Byte → Byte) (s : State)
    (hw : test = true → .z ∈ w) : Framed w [(effAddr m s).1] False s (modifyBits m test f s) := by
  have reads := (effAddr_frame m s).seq (State.load_frame (effAddr m s).1 _)
  have stores := fun u : State => State.store_frame (effAddr m s).1 (f (loadMem m s).1) u
  refine Frame.framed_advance ?_ _
  cases test with
  | false => exact (reads.trans (stores _)).mono (by simp) (by simp) (by simp)
  | true =>
    exact ((reads.trans (State.setTest_frame _ _)).trans (stores _)).mono (by simp [hw rfl]) (by simp) (by simp)

theorem placeOf_frame (t : Target) (s : State) : Frame [] [] False s (placeOf t s).2 := by
  cases t with
  | acc => exact Frame.refl s
  | mem m => exact effAddr_frame m s

theorem readPlace_frame (p : Place) (s : State) : Frame [] [] False s (readPlace p s).2 := by
  cases p with
  | acc => exact Frame.refl s
  | addr b => exact State.load_frame b s

/-- Writing the place of an operand writes A in mode `acc`, and one byte in a memory mode. -/
theorem writePlace_frame (t : Target) (s : State) (q : Byte) (u : State) :
    Frame (targetFootprint t) (targetStores t s) False u (writePlace (placeOf t s).1 q u) := by
  cases t with
  | acc => constructor <;> simp [targetFootprint, placeOf, State.peek]
  | mem m => exact State.store_frame _ q u

/-- A new C that is the old one where `w` does not list C. -/
theorem State.setC_frame {w : List Field} {q : Bool} {s : State} (hq : .c ∉ w → q = s.c) :
    Frame w [] False s { s with c := q } := by
  constructor
  case c => exact hq
  all_goals simp [State.peek]

theorem modifyOperand_framed {f : Byte → Bool → Byte × Bool} {w : List Field} (t : Target) (s : State)
    (hw : targetFootprint t ++ [.n, .z] ⊆ w) (hc : .c ∉ w → ∀ v c, (f v c).2 = c) :
    Framed w (targetStores t s) False s (modifyOperand f t s) := by
  have reads := (placeOf_frame t s).seq (readPlace_frame (placeOf t s).1 _)
  have carry := State.setC_frame (w := w) (s := (readPlace (placeOf t s).1 (placeOf t s).2).2)
    (fun k => hc k (readPlace (placeOf t s).1 (placeOf t s).2).1 _)
  have writes := fun u q => (writePlace_frame t s q u).trans (State.setNZ_frame q _)
  exact Frame.framed_advance (((reads.trans carry).trans (writes _ _)).mono (by simpa using hw) (by simp) (by simp)) _

theorem branchIf_frame (p : Bool) (off : Byte) (k : Nat) (s : State) : Frame [] [] False s (branchIf p off k s) := by
  cases p with
  | false => exact State.jump_frame _ s
  | true => exact (State.jump_frame _ s).seq (State.jump_frame _ _)

theorem branch_framed (p : Bool) (off : Byte) (s : State) : Framed [] [] False s (branch p off s) :=
  ⟨_, rfl, branchIf_frame p off 2 s⟩

theorem branchOnBit_framed (k : Nat) (want : Bool) (z off : Byte) (s : State) :
    Framed [] [] False s (branchOnBit k want z off s) :=
  ⟨_, rfl, (State.load_frame (zext z) s).seq (branchIf_frame _ off 3 _)⟩

/-- A pull, and then something with the byte: PLA, PLX, PLY, PLP. -/
theorem State.pull8_frame_seq {w : List Field} {s t : State} (hw : .sp ∈ w) (h : Frame w [] False s.pull8.2 t) :
    Frame w [] False s t :=
  ((State.pull8_frame s).trans h).mono (by simp [hw]) (by simp) (by simp)

theorem execBit_framed (q : Source) (s : State) : Framed (bitFootprint q) [] False s (execBit q s) := by
  unfold execBit
  cases q with
  | imm b => exact withOperand_framed (fun _ _ => State.setTest_frame _ _) (.imm b) s
  | mem m => exact withOperand_framed (fun _ _ => by constructor <;> simp [State.peek, bitFootprint]) (.mem m) s

theorem execJmp_framed (m : JumpMode) (s : State) : Framed [] [] False s (execJmp m s) := by
  cases m with
  | abs p => exact ⟨_, rfl, State.jump_frame p s⟩
  | ind p => exact ⟨_, rfl, (State.read16_frame p s).seq (State.jump_frame _ _)⟩
  | indX p => exact ⟨_, rfl, (State.read16_frame (p + zext s.x) s).seq (State.jump_frame _ _)⟩

/-! ### The frame of every instruction -/

/-- The instructions that set the run state (R37). -/
def Instr.setsRun (i : Instr) : Prop := i = .wai ∨ i = .stp ∨ i = .brk

/-- Every instruction answers a next state from every state, and leaves all but what the spec lists for it. -/
theorem exec_framed (i : Instr) (s : State) : Framed (footprint i) (storesTo i s) (Instr.setsRun i) s (exec i s) := by
  have keepsRun : ∀ {w l o}, Framed w l False s o → Framed w l (Instr.setsRun i) s o :=
    fun ⟨t, ho, h⟩ => ⟨t, ho, h.mono (fun _ k => k) (fun _ k => k) False.elim⟩
  unfold exec
  cases i with
  | adc q | sbc q | and q | ora q | eor q | lda q | ldx q | ldy q | cmp q | cpx q | cpy q =>
    exact keepsRun (withOperand_framed (fun _ _ => by constructor <;> simp [State.peek, footprint]) q s)
  | bit q => exact keepsRun (execBit_framed q s)
  | asl t | lsr t | rol t | ror t =>
    exact keepsRun (modifyOperand_framed t s (by simp [footprint]) (by simp [footprint]))
  | inc t | dec t => exact keepsRun (modifyOperand_framed t s (fun _ k => k) (fun _ _ _ => rfl))
  | sta m | stx m | sty m | stz m => exact keepsRun (storeMem_framed m _ s)
  | trb m | tsb m => exact keepsRun (modifyBits_framed m true _ s (fun _ => by simp [footprint]))
  | rmb0 z | rmb1 z | rmb2 z | rmb3 z | rmb4 z | rmb5 z | rmb6 z | rmb7 z
  | smb0 z | smb1 z | smb2 z | smb3 z | smb4 z | smb5 z | smb6 z | smb7 z =>
    exact keepsRun (modifyBits_framed (.zp z) false _ s (fun k => nomatch k))
  | bbr0 z o | bbr1 z o | bbr2 z o | bbr3 z o | bbr4 z o | bbr5 z o | bbr6 z o | bbr7 z o
  | bbs0 z o | bbs1 z o | bbs2 z o | bbs3 z o | bbs4 z o | bbs5 z o | bbs6 z o | bbs7 z o =>
    exact keepsRun (branchOnBit_framed _ _ z o s)
  | bpl o | bmi o | bvc o | bvs o | bra o | bcc o | bcs o | bne o | beq o => exact keepsRun (branch_framed _ o s)
  | clc | cld | cli | clv | sec | sed | sei | inx | iny | dex | dey | tax | tay | txa | tya | tsx | txs =>
    exact keepsRun (implied_framed (by constructor <;> simp [State.peek, footprint]))
  | pha | php | phx | phy => exact keepsRun (implied_framed (State.push8_frame _ s))
  | pla | plx | ply | plp =>
    exact keepsRun (implied_framed (State.pull8_frame_seq (by simp [footprint])
      (by constructor <;> simp [State.peek, footprint])))
  | jmp m => exact keepsRun (execJmp_framed m s)
  | jsr p =>
    exact keepsRun ⟨_, rfl, ((State.push16_frame _ s).trans (State.jump_frame p _)).mono (by simp [footprint])
      (by simp [storesTo]) (by simp)⟩
  | rts =>
    exact keepsRun ⟨_, rfl, ((State.pull16_frame s).trans (State.jump_frame _ _)).mono (by simp [footprint]) (by simp)
      (by simp)⟩
  | rti => exact keepsRun ⟨_, rfl, State.returnFromInterrupt_frame s⟩
  | brk =>
    exact ⟨_, rfl, ((State.jump_frame _ s).trans (State.interrupt_frame _ true _)).mono (by simp [footprint])
      (by simp [storesTo]) (by simp [Instr.setsRun])⟩
  | wai | stp =>
    exact implied_framed ((State.setRun_frame _ s).mono (by simp) (by simp) (by simp [Instr.setsRun]))
  | nop | nop1 op | nop2 op b | nop3 op b c => exact keepsRun ((Frame.refl s).framed_advance _)

/-- What an instruction leaves, where its next state is given. -/
theorem exec_frame {i : Instr} {s t : State} (h : exec i s = .next t) :
    Frame (footprint i) (storesTo i s) (Instr.setsRun i) s t := by
  obtain ⟨u, hu, hf⟩ := exec_framed i s
  rw [h, Host.Outcome.next.injEq] at hu
  exact hu ▸ hf

/-! ### O14, O43 to O46 -/

/-- Settles O14: that every instruction answers a next state is part of its frame. -/
theorem everyInstructionCompletes : Obligations.EveryInstructionCompletes := fun i s =>
  have ⟨t, ht, _⟩ := exec_framed i s
  ⟨t, ht⟩

/-- Settles O43: the register clauses of the frame. -/
theorem registersNotListedAreUntouched : Obligations.RegistersNotListedAreUntouched := fun _ _ _ h =>
  have hf := exec_frame h
  ⟨hf.a, hf.x, hf.y, hf.sp⟩

/-- Settles O44: the flag clauses of the frame. -/
theorem flagsNotListedAreUntouched : Obligations.FlagsNotListedAreUntouched := fun _ _ _ h =>
  have hf := exec_frame h
  ⟨hf.n, hf.v, hf.d, hf.i, hf.z, hf.c⟩

/-- Settles O45: the clause of the frame on stored bytes. -/
theorem memoryOutsideTheStoredBytesIsUntouched : Obligations.MemoryOutsideTheStoredBytesIsUntouched := fun _ _ _ h =>
  (exec_frame h).peek_outside

/-- Settles O46: the clauses of the frame on what the platform owns and on the run state. -/
theorem instructionsLeaveTheRestOfTheMachineAlone : Obligations.InstructionsLeaveTheRestOfTheMachineAlone :=
  fun _ _ _ h =>
  have hf := exec_frame h
  ⟨⟨hf.regions, hf.inputs, hf.nmiPending, hf.cycles⟩,
    fun hwai hstp hbrk => hf.run fun hset => hset.elim hwai fun k => k.elim hstp hbrk, hf.quiet⟩

end Sys2Proof.Machine

/-! What a step keeps of memory and of the memory map, and when it is refused: O54, O56, O57 and O58. -/

namespace Sys2Proof.Machine

/-- The memory map, every byte outside RAM and the canonical form stand in `t` as in `s`. -/
structure KeepsMemory (s t : State) : Prop where
  regions : t.regions = s.regions
  peek_of_not_ram : ∀ e, ¬ s.isRam e → t.peek e = s.peek e
  wf : s.mem.wf = true → t.mem.wf = true

theorem Frame.keepsMemory {w : List Field} {l : List Word} {r : Prop} {s t : State} (h : Frame w l r s t) :
    KeepsMemory s t :=
  ⟨h.regions, h.peek_of_not_ram, h.wf⟩

theorem KeepsMemory.of_eq {s t : State} (hm : t.mem = s.mem) (hr : t.regions = s.regions) : KeepsMemory s t :=
  ⟨hr, fun e _ => by rw [State.peek, hm, State.peek], fun h => hm ▸ h⟩

theorem KeepsMemory.trans {s t u : State} (h : KeepsMemory s t) (h' : KeepsMemory t u) : KeepsMemory s u where
  regions := h'.regions.trans h.regions
  peek_of_not_ram e he := by
    rw [h'.peek_of_not_ram e (by rwa [State.isRam, State.region_congr h.regions]), h.peek_of_not_ram e he]
  wf k := h'.wf (h.wf k)

theorem State.tick_keepsMemory (k : Nat) (s : State) : KeepsMemory s (s.tick k) := .of_eq rfl rfl

theorem State.sampled_keepsMemory (s : State) : KeepsMemory s s.sampled := .of_eq rfl rfl

theorem State.takeReset_keepsMemory (s : State) : KeepsMemory s s.takeReset := .of_eq (by simp) (by simp)

theorem State.takeIrq_keepsMemory (s : State) : KeepsMemory s s.takeIrq :=
  (State.interrupt_frame _ _ s).keepsMemory.trans (State.tick_keepsMemory _ _)

theorem State.takeNmi_keepsMemory (s : State) : KeepsMemory s s.takeNmi :=
  have latch : KeepsMemory s { s with nmiPending := false } := .of_eq rfl rfl
  latch.trans ((State.interrupt_frame _ _ _).keepsMemory.trans (State.tick_keepsMemory _ _))

theorem executeOne_keepsMemory {s t : State} (h : executeOne s = .next t) : KeepsMemory s t := by
  obtain ⟨i, u, -, hexec, rfl⟩ := executeOne_cases h
  exact (exec_frame hexec).keepsMemory.trans (State.tick_keepsMemory _ u)

/-- Every step, whatever happens at its boundary, keeps the map, the bytes outside RAM and the canonical form. -/
theorem step_keepsMemory {s t : State} (h : step s = .next t) : KeepsMemory s t := by
  refine (State.sampled_keepsMemory s).trans ?_
  rcases step_cases h with ⟨-, rfl⟩ | ⟨-, -, rfl⟩ | ⟨-, -, -, rfl⟩ | ⟨-, -, -, -, -, rfl⟩ | ⟨-, -, -, -, -, rfl⟩ |
    ⟨-, -, -, -, rfl⟩ | ⟨-, -, -, -, hexec⟩
  · exact (State.takeReset_keepsMemory _).trans (State.tick_keepsMemory _ _)
  · exact .of_eq rfl rfl
  · exact State.takeNmi_keepsMemory _
  · exact State.takeIrq_keepsMemory _
  · exact .of_eq rfl rfl
  · exact .of_eq rfl rfl
  · exact executeOne_keepsMemory hexec

/-- Settles O54. -/
theorem stepKeepsMemoryCanonical : Obligations.StepKeepsMemoryCanonical := fun _ _ hwf h =>
  (step_keepsMemory h).wf hwf

/-- Settles O56. -/
theorem stepKeepsTheMapAndEveryByteOutsideRam : Obligations.StepKeepsTheMapAndEveryByteOutsideRam := fun _ _ h =>
  ⟨(step_keepsMemory h).regions, (step_keepsMemory h).peek_of_not_ram⟩

/-! ### Refusals -/

/-- An instruction that is refused was not fetched: `exec` itself refuses nothing. -/
theorem executeOne_refused {s : State} {r : Refusal} (h : executeOne s = .refused r) : s.fetch = .error r := by
  unfold executeOne at h
  split at h
  case h_1 e he => rw [he]; cases h; rfl
  case h_2 i hi =>
    obtain ⟨t, ht, -⟩ := exec_framed i s
    rw [ht] at h
    cases h

/-- Only a machine that is Running executes, and so only there a step can be refused. -/
theorem step_refused_running {s : State} {r : Refusal} (h : step s = .refused r) : s.run = .running := by
  unfold step stepAtBoundary at h
  cases hrun : s.run with
  | running => rfl
  | stopped => simp only [State.sampled_run, hrun, if_true] at h; split at h <;> cases h
  | waiting =>
    simp only [State.sampled_run, hrun, if_true] at h
    repeat (split at h; · cases h)
    cases h

/-- Settles O57: a step has no fault to answer with; a refusal is that of the fetch, which names the first byte of the
instruction that it could not read. -/
theorem onlyTheFetchIsRefused : Obligations.OnlyTheFetchIsRefused := by
  intro s
  refine ⟨nofun, fun r h => ⟨step_refused_running h, ?_⟩⟩
  obtain ⟨k, hk, hbefore, hbyte⟩ := State.fetch_error (executeOne_refused (step_refused_cases h))
  rw [opcodeLength_eq_lengthCell] at hk
  refine ⟨k, hk, hbefore, ?_⟩
  rcases State.fetchByte_error hbyte with ⟨hio, hr⟩ | ⟨hun, hr⟩
  · exact .inl ⟨hr, hio⟩
  · exact .inr ⟨hr, hun⟩

/-! ### Runs -/

/-- Where every address is RAM or ROM a step answers a next state: no byte is there that a fetch could be refused for. -/
theorem step_completes_of_memory {s : State} (hm : ∀ b, s.isMemory b) : ∃ t, step s = .next t := by
  obtain ⟨hfault, hrefused⟩ := onlyTheFetchIsRefused s
  cases hstep : step s with
  | next t => exact ⟨t, rfl⟩
  | fault f => exact absurd hstep (hfault f)
  | refused r =>
    obtain ⟨-, k, -, -, hregion⟩ := hrefused r hstep
    rcases hm (s.pc + BitVec.ofNat 16 k) with h | h <;> simp [h] at hregion

/-- A run takes its first step and goes on from there. -/
theorem run_succ (M : Host.Core) {s t : M.State} (h : M.step s = .next t) (k : Nat) : M.run (k + 1) s = M.run k t := by
  rw [Host.Core.run, h]

/-- Settles O58, by induction on the number of steps: each step completes and keeps the map. -/
theorem runsInMemoryNeverStop : Obligations.RunsInMemoryNeverStop := by
  intro k
  induction k with
  | zero => exact fun s _ => ⟨s, rfl⟩
  | succ k ih =>
    intro s hm
    obtain ⟨t, ht⟩ := step_completes_of_memory hm
    obtain ⟨u, hu⟩ := ih t fun b => by
      rw [State.isMemory, State.region_congr (step_keepsMemory ht).regions]; exact hm b
    exact ⟨u, (run_succ Sys2Proof.core ht k).trans hu⟩

end Sys2Proof.Machine

/-! The round trips between an instruction and its bytes (R80 to R86, R105, R110): O2 and O3. -/

namespace Sys2Proof.Machine

/-! ### The halves of a word (R6) -/

theorem lo_toNat (w : Word) : (lo w).toNat = w.toNat % 256 := by
  simp [lo]

theorem hi_toNat (w : Word) : (hi w).toNat = w.toNat / 256 := by
  have hw := w.isLt
  simp [hi, Nat.shiftRight_eq_div_pow]
  omega

theorem lo_word (h l : Byte) : lo (word h l) = l := by
  have hl := l.isLt
  refine BitVec.eq_of_toNat_eq ?_
  rw [lo_toNat, word_toNat]
  omega

theorem hi_word (h l : Byte) : hi (word h l) = h := by
  have hl := l.isLt
  refine BitVec.eq_of_toNat_eq ?_
  rw [hi_toNat, word_toNat]
  omega

theorem word_hi_lo (w : Word) : word (hi w) (lo w) = w := by
  refine BitVec.eq_of_toNat_eq ?_
  rw [word_toNat, hi_toNat, lo_toNat]
  omega

end Sys2Proof.Machine

namespace Sys2Proof

open Sys2Proof.Machine (word lo hi lo_word hi_word word_hi_lo)

/-! ### Decoding what was encoded -/

/-- An opcode byte whose LEN is 3 and whose operand is a word, followed by the two bytes of the word, low byte first. -/
theorem decode_word {op : Byte} {mk : Word → Instr} (hlen : opcodeLength op = 3)
    (hdec : ∀ b1 b2, decodeOpcode op b1 b2 = mk (word b2 b1)) (w : Word) (rest : List Byte) :
    decode ([op, lo w, hi w] ++ rest) = .ok (mk w, rest) := by
  simp [decode, hlen, hdec, word_hi_lo]

/-- Where the map of R110 takes the opcode byte of each memory form of a row of R105: to that form, with its LEN. -/
structure Forms.Maps (f : Forms) (mk : AddrMode → Instr) : Prop where
  zp : ∀ op, f.zp = some op → opcodeLength op = 2 ∧ ∀ b1 b2, decodeOpcode op b1 b2 = mk (.zp b1)
  zpX : ∀ op, f.zpX = some op → opcodeLength op = 2 ∧ ∀ b1 b2, decodeOpcode op b1 b2 = mk (.zpX b1)
  zpY : ∀ op, f.zpY = some op → opcodeLength op = 2 ∧ ∀ b1 b2, decodeOpcode op b1 b2 = mk (.zpY b1)
  abs : ∀ op, f.abs = some op → opcodeLength op = 3 ∧ ∀ b1 b2, decodeOpcode op b1 b2 = mk (.abs (word b2 b1))
  absX : ∀ op, f.absX = some op → opcodeLength op = 3 ∧ ∀ b1 b2, decodeOpcode op b1 b2 = mk (.absX (word b2 b1))
  absY : ∀ op, f.absY = some op → opcodeLength op = 3 ∧ ∀ b1 b2, decodeOpcode op b1 b2 = mk (.absY (word b2 b1))
  indX : ∀ op, f.indX = some op → opcodeLength op = 2 ∧ ∀ b1 b2, decodeOpcode op b1 b2 = mk (.indX b1)
  indY : ∀ op, f.indY = some op → opcodeLength op = 2 ∧ ∀ b1 b2, decodeOpcode op b1 b2 = mk (.indY b1)
  ind : ∀ op, f.ind = some op → opcodeLength op = 2 ∧ ∀ b1 b2, decodeOpcode op b1 b2 = mk (.ind b1)

/-- An opcode byte whose LEN is 2, followed by its operand byte. -/
theorem decode_byte {op : Byte} {mk : Byte → Instr} (hlen : opcodeLength op = 2)
    (hdec : ∀ b1 b2, decodeOpcode op b1 b2 = mk b1) (z : Byte) (rest : List Byte) :
    decode ([op, z] ++ rest) = .ok (mk z, rest) := by
  simp [decode, hlen, hdec]

theorem decode_encodeForm_byte {o : Option Byte} {mk : Byte → Instr}
    (h : ∀ op, o = some op → opcodeLength op = 2 ∧ ∀ b1 b2, decodeOpcode op b1 b2 = mk b1) (z : Byte)
    (hne : encodeForm o [z] ≠ []) (rest : List Byte) : decode (encodeForm o [z] ++ rest) = .ok (mk z, rest) := by
  cases o with
  | none => exact absurd rfl hne
  | some op => exact decode_byte (h op rfl).1 (h op rfl).2 z rest

theorem decode_encodeForm_word {o : Option Byte} {mk : Word → Instr}
    (h : ∀ op, o = some op → opcodeLength op = 3 ∧ ∀ b1 b2, decodeOpcode op b1 b2 = mk (word b2 b1)) (w : Word)
    (hne : encodeForm o [lo w, hi w] ≠ []) (rest : List Byte) :
    decode (encodeForm o [lo w, hi w] ++ rest) = .ok (mk w, rest) := by
  cases o with
  | none => exact absurd rfl hne
  | some op => exact decode_word (h op rfl).1 (h op rfl).2 w rest

/-- A memory operand comes back from its bytes, in every mode its row of R105 has. -/
theorem AddrMode.decode_encodeWith {f : Forms} {mk : AddrMode → Instr} (hf : f.Maps mk) (m : AddrMode)
    (hne : m.encodeWith f ≠ []) (rest : List Byte) : decode (m.encodeWith f ++ rest) = .ok (mk m, rest) := by
  cases m with
  | zp z => exact decode_encodeForm_byte hf.zp z hne rest
  | zpX z => exact decode_encodeForm_byte hf.zpX z hne rest
  | zpY z => exact decode_encodeForm_byte hf.zpY z hne rest
  | abs w => exact decode_encodeForm_word (mk := fun w => mk (.abs w)) hf.abs w hne rest
  | absX w => exact decode_encodeForm_word (mk := fun w => mk (.absX w)) hf.absX w hne rest
  | absY w => exact decode_encodeForm_word (mk := fun w => mk (.absY w)) hf.absY w hne rest
  | indX z => exact decode_encodeForm_byte hf.indX z hne rest
  | indY z => exact decode_encodeForm_byte hf.indY z hne rest
  | ind z => exact decode_encodeForm_byte hf.ind z hne rest

/-- An operand that is only read comes back from its bytes, in every form its row has. -/
theorem Source.decode_encodeWith {f : Forms} {mk : Source → Instr} (hf : f.Maps fun m => mk (.mem m))
    (himm : ∀ op, f.imm = some op → opcodeLength op = 2 ∧ ∀ b1 b2, decodeOpcode op b1 b2 = mk (.imm b1)) (q : Source)
    (hne : q.encodeWith f ≠ []) (rest : List Byte) : decode (q.encodeWith f ++ rest) = .ok (mk q, rest) := by
  cases q with
  | imm b => exact decode_encodeForm_byte himm b hne rest
  | mem m => exact AddrMode.decode_encodeWith hf m hne rest

/-- A read-modify-write operand comes back from its bytes, in every form its row has. -/
theorem Target.decode_encodeWith {f : Forms} {mk : Target → Instr} (hf : f.Maps fun m => mk (.mem m))
    (hacc : ∀ op, f.acc = some op → opcodeLength op = 1 ∧ ∀ b1 b2, decodeOpcode op b1 b2 = mk .acc) (t : Target)
    (hne : t.encodeWith f ≠ []) (rest : List Byte) : decode (t.encodeWith f ++ rest) = .ok (mk t, rest) := by
  cases t with
  | acc =>
    cases hop : f.acc with
    | none => exact absurd (by rw [Target.encodeWith, hop, encodeForm]) hne
    | some op =>
      obtain ⟨hlen, hdec⟩ := hacc op hop
      simp [Target.encodeWith, hop, encodeForm, decode, hlen, hdec]
  | mem m => exact AddrMode.decode_encodeWith hf m hne rest

/-- A byte by its two hexadecimal digits: row and column of the opcode map. -/
theorem byte_eq_digits (op : Byte) : ∃ h l : Nat, h < 16 ∧ l < 16 ∧ op = BitVec.ofNat 8 (16 * h + l) := by
  have hop := op.isLt
  refine ⟨op.toNat / 16, op.toNat % 16, by omega, by omega, ?_⟩
  rw [Nat.div_add_mod, BitVec.ofNat_toNat, BitVec.setWidth_eq]

/-- The 44 invalid opcodes stand in the map of R110 with the LEN of their list and their own opcode byte (R83). -/
theorem decodeOpcode_invalid (op : Byte) :
    (isNop1 op = true → opcodeLength op = 1 ∧ ∀ b1 b2, decodeOpcode op b1 b2 = .nop1 op) ∧
    (isNop2 op = true → opcodeLength op = 2 ∧ ∀ b1 b2, decodeOpcode op b1 b2 = .nop2 op b1) ∧
    (isNop3 op = true → opcodeLength op = 3 ∧ ∀ b1 b2, decodeOpcode op b1 b2 = .nop3 op b1 b2) := by
  obtain ⟨h, l, hh, hl, rfl⟩ := byte_eq_digits op
  interval_cases h <;> interval_cases l <;> refine ⟨?_, ?_, ?_⟩ <;> rintro ⟨⟩ <;> exact ⟨rfl, fun _ _ => rfl⟩

/-- An instruction that has an encoding comes back from it, and the bytes after it are left. -/
theorem decode_encode_of_ne_nil (i : Instr) (hne : encode i ≠ []) (rest : List Byte) :
    decode (encode i ++ rest) = .ok (i, rest) := by
  cases i with
  | adc q | and q | bit q | cmp q | cpx q | cpy q | eor q | lda q | ldx q | ldy q | ora q | sbc q =>
    refine Source.decode_encodeWith ?_ ?_ q hne rest
    · constructor <;> rintro _ ⟨⟩ <;> exact ⟨rfl, fun _ _ => rfl⟩
    · rintro _ ⟨⟩
      exact ⟨rfl, fun _ _ => rfl⟩
  | asl t | dec t | inc t | lsr t | rol t | ror t =>
    refine Target.decode_encodeWith ?_ ?_ t hne rest
    · constructor <;> rintro _ ⟨⟩ <;> exact ⟨rfl, fun _ _ => rfl⟩
    · rintro _ ⟨⟩
      exact ⟨rfl, fun _ _ => rfl⟩
  | sta m | stx m | sty m | stz m | trb m | tsb m =>
    refine AddrMode.decode_encodeWith ?_ m hne rest
    constructor <;> rintro _ ⟨⟩ <;> exact ⟨rfl, fun _ _ => rfl⟩
  | jmp m =>
    cases m with
    | abs w => exact decode_word (mk := fun w => .jmp (.abs w)) rfl (fun _ _ => rfl) w rest
    | ind w => exact decode_word (mk := fun w => .jmp (.ind w)) rfl (fun _ _ => rfl) w rest
    | indX w => exact decode_word (mk := fun w => .jmp (.indX w)) rfl (fun _ _ => rfl) w rest
  | jsr w => exact decode_word rfl (fun _ _ => rfl) w rest
  | nop1 op =>
    by_cases h : isNop1 op = true
    · obtain ⟨hlen, hdec⟩ := (decodeOpcode_invalid op).1 h
      simp [encode, h, decode, hlen, hdec]
    · exact absurd (if_neg h) hne
  | nop2 op b =>
    by_cases h : isNop2 op = true
    · obtain ⟨hlen, hdec⟩ := (decodeOpcode_invalid op).2.1 h
      simp [encode, h, decode, hlen, hdec]
    · exact absurd (if_neg h) hne
  | nop3 op b c =>
    by_cases h : isNop3 op = true
    · obtain ⟨hlen, hdec⟩ := (decodeOpcode_invalid op).2.2 h
      simp [encode, h, decode, hlen, hdec]
    · exact absurd (if_neg h) hne
  | _ => rfl

/-- A well-formed instruction has an encoding: its row of R105 has the form it carries. -/
theorem encode_ne_nil_of_wellFormed (i : Instr) (hwf : i.wellFormed = true) : encode i ≠ [] := by
  cases i with
  | adc q | and q | bit q | cmp q | cpx q | cpy q | eor q | lda q | ldx q | ldy q | ora q | sbc q =>
    cases q with
    | imm b => exact List.cons_ne_nil _ _
    | mem m => cases m <;> first | exact List.cons_ne_nil _ _ | cases hwf
  | asl t | dec t | inc t | lsr t | rol t | ror t =>
    cases t with
    | acc => exact List.cons_ne_nil _ _
    | mem m => cases m <;> first | exact List.cons_ne_nil _ _ | cases hwf
  | sta m | stx m | sty m | stz m | trb m | tsb m => cases m <;> first | exact List.cons_ne_nil _ _ | cases hwf
  | jmp m => cases m <;> exact List.cons_ne_nil _ _
  | nop1 op | nop2 op b | nop3 op b c =>
    rw [Instr.wellFormed] at hwf
    simp [encode, hwf]
  | _ => exact List.cons_ne_nil _ _

/-- Settles O2: a well-formed instruction has bytes, and what has bytes comes back from them. -/
theorem decodeOfEncodeGivesTheInstructionBack : Obligations.DecodeOfEncodeGivesTheInstructionBack :=
  fun i rest hwf => decode_encode_of_ne_nil i (encode_ne_nil_of_wellFormed i hwf) rest

/-! ### Encoding what was decoded -/

/-- Every cell of the map of R110 answers a well-formed instruction. -/
theorem decodeOpcode_wellFormed (op b1 b2 : Byte) : (decodeOpcode op b1 b2).wellFormed = true := by
  obtain ⟨h, l, hh, hl, rfl⟩ := byte_eq_digits op
  interval_cases h <;> interval_cases l <;> rfl

/-- Every cell of the map of R110 answers an instruction whose bytes are those it was read from: the opcode byte, and as
many operand bytes as its LEN takes in. Where the operand is a word these are the two halves of it. -/
theorem encode_decodeOpcode (op b1 b2 : Byte) :
    encode (decodeOpcode op b1 b2) = [op, b1, b2].take (opcodeLength op) := by
  obtain ⟨h, l, hh, hl, rfl⟩ := byte_eq_digits op
  interval_cases h <;> interval_cases l <;>
    first | rfl | exact congrArg₂ (fun x y => [_, x, y]) (lo_word b2 b1) (hi_word b2 b1)

/-- The bytes an instruction takes in and the bytes left after it are the bytes that were there. -/
theorem take_append_drop_of_length (op : Byte) {n : Nat} {tail : List Byte} (hpos : 0 < n) (hle : n ≤ 3)
    (hlen : n ≤ tail.length + 1) :
    [op, tail.getD 0 0, tail.getD 1 0].take n ++ tail.drop (n - 1) = op :: tail := by
  match n, tail with
  | 1, _ => rfl
  | 2, _ :: _ => rfl
  | 3, _ :: _ :: _ => rfl
  | 2, [] | 3, [] | 3, [_] => simp at hlen
  | n + 4, _ => omega

theorem opcodeLength_le_three (op : Byte) : opcodeLength op ≤ 3 := by
  revert op
  decide

/-- Settles O3: the decoder answers the cell of the opcode, which is well formed and encodes to the bytes it took in. -/
theorem encodeOfDecodeGivesTheBytesBack : Obligations.EncodeOfDecodeGivesTheBytesBack := by
  intro bytes i rest h
  cases bytes with
  | nil => cases h
  | cons op tail =>
    rw [decode] at h
    split at h
    · cases h
    next hlen =>
      cases h
      refine ⟨decodeOpcode_wellFormed _ _ _, ?_⟩
      rw [encode_decodeOpcode]
      exact take_append_drop_of_length op (Machine.opcodeLength_pos op) (opcodeLength_le_three op) (by omega)

end Sys2Proof

/-! The cycle counts against the CYCLES grid (R351, R352): O5. -/

namespace Sys2Proof.Machine

/-! ### The terms p, d and t+t*p as the grid reads them -/

/-- The cycle count is the number of the cell and its terms. -/
def FollowsCell (i : Instr) (s : State) (k : CycleCell) : Prop :=
  instrCycles i s = k.base + cycleTerms k i s

theorem zext_toNat (b : Byte) : (zext b).toNat = b.toNat := by
  have hb := b.isLt
  rw [zext, BitVec.toNat_setWidth]
  omega

/-- Two addresses lie in the same page exactly when their high bytes are equal. -/
theorem hi_ne_iff (v w : Word) : (hi v != hi w) = decide (v.toNat / 256 ≠ w.toNat / 256) := by
  rw [bne, Bool.eq_iff_iff]
  simp [← BitVec.toNat_inj, hi_toNat]

/-- The index carries into the high byte exactly when it carries out of the low byte of the operand. -/
theorem indexCarry_eq (w : Word) (q : Byte) : indexCarry w q = b2n (decide (255 < w.toNat % 256 + q.toNat)) := by
  have hw := w.isLt
  have hq := q.isLt
  rw [indexCarry, hi_ne_iff, BitVec.toNat_add, zext_toNat]
  congr 1
  rw [decide_eq_decide]
  omega

theorem pointerCarry_eq (z : Byte) (s : State) :
    pointerCarry z s = b2n (decide (255 < (s.read16zp z).1.toNat % 256 + s.y.toNat)) := by
  rw [pointerCarry, lo_toNat]

/-- An instruction with a memory operand has the terms d and p. -/
theorem FollowsCell.mem {i : Instr} {s : State} {k : CycleCell} {m : AddrMode} (hm : memOperand i = some m)
    (hb : branchOf i s = none) (h : instrCycles i s = k.base + (b2n (k.d && s.d) + b2n (k.p && crossesPage m s))) :
    FollowsCell i s k := by
  rw [FollowsCell, h, cycleTerms, hm, hb]
  simp [b2n]

/-- An instruction that is no branch and has no memory operand has the term d alone. -/
theorem FollowsCell.other {i : Instr} {s : State} {k : CycleCell} (hm : memOperand i = none)
    (hb : branchOf i s = none) (h : instrCycles i s = k.base + b2n (k.d && s.d)) : FollowsCell i s k := by
  rw [FollowsCell, h, cycleTerms, hm, hb]
  simp [b2n]

/-- A conditional branch has the terms t and t*p. -/
theorem FollowsCell.ofBranch {i : Instr} {s : State} {k : CycleCell} {taken : Bool} {off : Byte}
    (hm : memOperand i = none) (hb : branchOf i s = some (taken, off)) (hk : k.branch = true) (hd : k.d = false)
    (h : instrCycles i s = k.base + takenCycles taken off (s.pc + BitVec.ofNat 16 i.len)) : FollowsCell i s k := by
  rw [FollowsCell, h, cycleTerms, hm, hb]
  cases taken with
  | false => simp [takenCycles, hd]
  | true =>
    generalize s.pc + BitVec.ofNat 16 i.len = next
    by_cases hpage : (next + sext off).toNat / 256 = next.toNat / 256 <;>
      simp [takenCycles, hi_ne_iff, hd, hk, b2n, hpage, -BitVec.toNat_add]

/-- BBR and BBS: the branch is taken when the bit has the wanted value. -/
theorem FollowsCell.ofBitBranch {i : Instr} {s : State} {k : CycleCell} {n : Nat} {want : Bool} {z off : Byte}
    (hm : memOperand i = none)
    (hb : branchOf i s = some (cond want ((s.load (zext z)).1.getLsbD n) (!(s.load (zext z)).1.getLsbD n), off))
    (hk : k.branch = true) (hd : k.d = false) (hbase : k.base = 5) (hlen : i.len = 3)
    (h : instrCycles i s = bitBranchCycles n want z off s) : FollowsCell i s k := by
  refine .ofBranch hm hb hk hd ?_
  rw [h, hbase, hlen, bitBranchCycles]
  cases want <;> simp

/-- The number in the cell of an instruction that reads a memory operand. -/
def readBase : AddrMode → Nat
  | .zp _ => 3
  | .zpX _ | .zpY _ | .abs _ | .absX _ | .absY _ => 4
  | .indX _ => 6
  | .indY _ | .ind _ => 5

theorem readCycles_eq (m : AddrMode) (s : State) : readCycles m s = readBase m + b2n (crossesPage m s) := by
  cases m with
  | absX w => rw [readCycles, indexCarry_eq]; rfl
  | absY w => rw [readCycles, indexCarry_eq]; rfl
  | indY z => rw [readCycles, pointerCarry_eq]; rfl
  | _ => rfl

theorem FollowsCell.reads {i : Instr} {s : State} {k : CycleCell} {m : AddrMode} (hm : memOperand i = some m)
    (hb : branchOf i s = none) (hbase : k.base = readBase m) (hp : (k.p && crossesPage m s) = crossesPage m s)
    (h : instrCycles i s = readCycles m s + b2n (k.d && s.d)) : FollowsCell i s k := by
  refine .mem hm hb ?_
  rw [h, hbase, hp, readCycles_eq]
  omega

/-- The cells of the invalid opcodes: their cycles, and no term. -/
theorem cycleCell_invalid (op : Byte) :
    (isNop1 op = true → (cycleCell op).base = 1 ∧ (cycleCell op).d = false) ∧
    (isNop2 op = true → (cycleCell op).base = nop2Cycles op ∧ (cycleCell op).d = false) ∧
    (isNop3 op = true → (cycleCell op).base = nop3Cycles op ∧ (cycleCell op).d = false) := by
  revert op
  decide

theorem FollowsCell.invalid {i : Instr} {s : State} {k : CycleCell} {n : Nat} (hm : memOperand i = none)
    (hb : branchOf i s = none) (hi : instrCycles i s = n) (hk : k.base = n ∧ k.d = false) : FollowsCell i s k :=
  .other hm hb (by rw [hi, hk.1, hk.2]; rfl)

/-- Settles O5, form by form: a form that R105 does not list has no opcode byte, and every other one stands in its cell. -/
theorem cyclesFollowTheGrid : Obligations.CyclesFollowTheGrid := by
  intro i s op rest hwf henc
  show FollowsCell i s (cycleCell op)
  cases i with
  | adc q | sbc q | and q | bit q | cmp q | cpx q | cpy q | eor q | lda q | ldx q | ldy q | ora q =>
    cases q with
    | imm b => cases henc; exact .other rfl rfl rfl
    | mem m => cases m <;> cases henc <;> exact .reads rfl rfl rfl rfl rfl
  | sta m | stx m | sty m | stz m | trb m | tsb m => cases m <;> cases henc <;> exact .mem rfl rfl rfl
  | asl t | lsr t | rol t | ror t =>
    cases t with
    | acc => cases henc; exact .other rfl rfl rfl
    | mem m =>
      cases m with
      | absX w => cases henc; exact .mem rfl rfl (congrArg (6 + ·) ((indexCarry_eq w s.x).trans (Nat.zero_add _).symm))
      | _ => cases henc <;> exact .mem rfl rfl rfl
  | inc t | dec t =>
    cases t with
    | acc => cases henc; exact .other rfl rfl rfl
    | mem m => cases m <;> cases henc <;> exact .mem rfl rfl rfl
  | bbr0 z o | bbr1 z o | bbr2 z o | bbr3 z o | bbr4 z o | bbr5 z o | bbr6 z o | bbr7 z o
  | bbs0 z o | bbs1 z o | bbs2 z o | bbs3 z o | bbs4 z o | bbs5 z o | bbs6 z o | bbs7 z o =>
    cases henc; exact .ofBitBranch rfl rfl rfl rfl rfl rfl rfl
  | bpl o | bmi o | bvc o | bvs o | bcc o | bcs o | bne o | beq o => cases henc; exact .ofBranch rfl rfl rfl rfl rfl
  | jmp m => cases m <;> cases henc <;> exact .other rfl rfl rfl
  | nop1 b =>
    rw [Instr.wellFormed] at hwf
    simp only [encode, hwf, if_true] at henc
    cases henc
    exact .invalid rfl rfl rfl ((cycleCell_invalid op).1 hwf)
  | nop2 b b1 =>
    rw [Instr.wellFormed] at hwf
    simp only [encode, hwf, if_true] at henc
    cases henc
    exact .invalid rfl rfl rfl ((cycleCell_invalid op).2.1 hwf)
  | nop3 b b1 b2 =>
    rw [Instr.wellFormed] at hwf
    simp only [encode, hwf, if_true] at henc
    cases henc
    exact .invalid rfl rfl rfl ((cycleCell_invalid op).2.2 hwf)
  | _ => cases henc; exact .other rfl rfl rfl

end Sys2Proof.Machine

/-! What the machine does not look at between two boundaries (R304, R354): the inputs, the NMI latch and the cycle counter
pass through every instruction, and the counter through every step. O47 and O59. -/

namespace Sys2Proof.Machine

/-- The state with the inputs, the NMI latch and the cycle counter of another. -/
def State.withEnvOf (s e : State) : State :=
  { s with inputs := e.inputs, nmiPending := e.nmiPending, cycles := e.cycles }

/-- The next state changed, where there is one. -/
def mapNext (g : State → State) : Host.Outcome State Fault Refusal → Host.Outcome State Fault Refusal
  | .next t => .next (g t)
  | .fault f => .fault f
  | .refused r => .refused r

/-! ### The operations -/

theorem State.load_withEnvOf (e : State) (b : Word) (s : State) :
    (s.withEnvOf e).load b = ((s.load b).1, (s.load b).2.withEnvOf e) := by
  unfold State.load
  have hregion : (s.withEnvOf e).region b = s.region b := rfl
  rw [hregion]
  cases s.region b <;> rfl

theorem State.store_withEnvOf (e : State) (b : Word) (v : Byte) (s : State) :
    (s.withEnvOf e).store b v = (s.store b v).withEnvOf e := by
  unfold State.store
  have hregion : (s.withEnvOf e).region b = s.region b := rfl
  rw [hregion]
  cases s.region b <;> rfl

theorem State.read16_withEnvOf (e : State) (b : Word) (s : State) :
    (s.withEnvOf e).read16 b = ((s.read16 b).1, (s.read16 b).2.withEnvOf e) := by
  simp only [State.read16, State.load_withEnvOf]

theorem State.read16zp_withEnvOf (e : State) (z : Byte) (s : State) :
    (s.withEnvOf e).read16zp z = ((s.read16zp z).1, (s.read16zp z).2.withEnvOf e) := by
  simp only [State.read16zp, State.load_withEnvOf]

theorem State.push8_withEnvOf (e : State) (v : Byte) (s : State) :
    (s.withEnvOf e).push8 v = (s.push8 v).withEnvOf e := by
  unfold State.push8
  rw [State.store_withEnvOf]
  rfl

theorem State.push16_withEnvOf (e : State) (w : Word) (s : State) :
    (s.withEnvOf e).push16 w = (s.push16 w).withEnvOf e := by
  simp only [State.push16, State.push8_withEnvOf]

theorem State.pull8_withEnvOf (e : State) (s : State) :
    (s.withEnvOf e).pull8 = (s.pull8.1, s.pull8.2.withEnvOf e) :=
  State.load_withEnvOf e (stackAddr (s.sp + 1)) { s with sp := s.sp + 1 }

theorem State.pull16_withEnvOf (e : State) (s : State) :
    (s.withEnvOf e).pull16 = (s.pull16.1, s.pull16.2.withEnvOf e) := by
  simp only [State.pull16, State.pull8_withEnvOf]

theorem State.interrupt_withEnvOf (e : State) (vector : Word) (brk : Bool) (s : State) :
    (s.withEnvOf e).interrupt vector brk = (s.interrupt vector brk).withEnvOf e := by
  have hflags : ∀ u : State, { u.withEnvOf e with i := true, d := false } =
      State.withEnvOf { u with i := true, d := false } e := fun _ => rfl
  simp only [State.interrupt, State.push16_withEnvOf, State.push8_withEnvOf, hflags, State.read16_withEnvOf]
  rfl

theorem State.returnFromInterrupt_withEnvOf (e : State) (s : State) :
    (s.withEnvOf e).returnFromInterrupt = s.returnFromInterrupt.withEnvOf e := by
  unfold State.returnFromInterrupt
  rw [State.pull8_withEnvOf]
  have hload : ∀ (q : Byte) (u : State), (u.withEnvOf e).srLoad q = (u.srLoad q).withEnvOf e := fun _ _ => rfl
  simp only [hload, State.pull16_withEnvOf]
  rfl

theorem effAddr_withEnvOf (e : State) (m : AddrMode) (s : State) :
    effAddr m (s.withEnvOf e) = ((effAddr m s).1, (effAddr m s).2.withEnvOf e) := by
  cases m with
  | indX z => exact State.read16zp_withEnvOf e (z + s.x) s
  | indY z => simp only [effAddr, State.read16zp_withEnvOf]; rfl
  | ind z => exact State.read16zp_withEnvOf e z s
  | zp | zpX | zpY | abs | absX | absY => rfl

theorem operand_withEnvOf (e : State) (q : Source) (s : State) :
    operand q (s.withEnvOf e) = ((operand q s).1, (operand q s).2.withEnvOf e) := by
  cases q with
  | imm b => rfl
  | mem m => simp only [operand, loadMem, effAddr_withEnvOf, State.load_withEnvOf]

theorem placeOf_withEnvOf (e : State) (t : Target) (s : State) :
    placeOf t (s.withEnvOf e) = ((placeOf t s).1, (placeOf t s).2.withEnvOf e) := by
  cases t with
  | acc => rfl
  | mem m => simp only [placeOf, effAddr_withEnvOf]

theorem readPlace_withEnvOf (e : State) (p : Place) (s : State) :
    readPlace p (s.withEnvOf e) = ((readPlace p s).1, (readPlace p s).2.withEnvOf e) := by
  cases p with
  | acc => rfl
  | addr b => exact State.load_withEnvOf e b s

theorem writePlace_withEnvOf (e : State) (p : Place) (v : Byte) (s : State) :
    writePlace p v (s.withEnvOf e) = (writePlace p v s).withEnvOf e := by
  cases p with
  | acc => rfl
  | addr b => exact State.store_withEnvOf e b v s

/-! ### The shapes of instruction -/

theorem withOperand_withEnvOf {e : State} {f : Byte → State → State}
    (hf : ∀ b t, f b (State.withEnvOf t e) = (f b t).withEnvOf e) (q : Source) (s : State) :
    withOperand q f (s.withEnvOf e) = mapNext (·.withEnvOf e) (withOperand q f s) := by
  simp only [withOperand, operand_withEnvOf, hf]
  rfl

theorem storeMem_withEnvOf (e : State) (m : AddrMode) (v : Byte) (s : State) :
    storeMem m v (s.withEnvOf e) = mapNext (·.withEnvOf e) (storeMem m v s) := by
  simp only [storeMem, effAddr_withEnvOf, State.store_withEnvOf]
  rfl

theorem modifyBits_withEnvOf (e : State) (m : AddrMode) (test : Bool) (f : Byte → Byte) (s : State) :
    modifyBits m test f (s.withEnvOf e) = mapNext (·.withEnvOf e) (modifyBits m test f s) := by
  have htest : ∀ (v : Byte) (u : State), (u.withEnvOf e).setTest v = (u.setTest v).withEnvOf e := fun _ _ => rfl
  cases test <;> simp only [modifyBits, effAddr_withEnvOf, State.load_withEnvOf, htest, State.store_withEnvOf,
    Bool.false_eq_true, if_true, if_false] <;> rfl

theorem modifyOperand_withEnvOf (e : State) (f : Byte → Bool → Byte × Bool) (t : Target) (s : State) :
    modifyOperand f t (s.withEnvOf e) = mapNext (·.withEnvOf e) (modifyOperand f t s) := by
  have hcarry : ∀ (q : Bool) (u : State), { u.withEnvOf e with c := q } = State.withEnvOf { u with c := q } e :=
    fun _ _ => rfl
  have hc : ∀ u : State, (u.withEnvOf e).c = u.c := fun _ => rfl
  simp only [modifyOperand, placeOf_withEnvOf, readPlace_withEnvOf, hc, hcarry, writePlace_withEnvOf]
  rfl

theorem branchOnBit_withEnvOf (e : State) (n : Nat) (want : Bool) (z off : Byte) (s : State) :
    branchOnBit n want z off (s.withEnvOf e) = mapNext (·.withEnvOf e) (branchOnBit n want z off s) := by
  simp only [branchOnBit_spec, State.load_withEnvOf]
  rfl

theorem branch_withEnvOf (e : State) (p : Bool) (off : Byte) (s : State) :
    branch p off (s.withEnvOf e) = mapNext (·.withEnvOf e) (branch p off s) := by
  simp only [branch_spec]
  rfl

theorem implied_withEnvOf {e : State} {f : State → State} {s : State}
    (hf : f (s.withEnvOf e) = (f s).withEnvOf e) :
    implied f (s.withEnvOf e) = mapNext (·.withEnvOf e) (implied f s) := by
  simp only [implied_spec, hf]
  rfl

theorem execBit_withEnvOf (e : State) (q : Source) (s : State) :
    execBit q (s.withEnvOf e) = mapNext (·.withEnvOf e) (execBit q s) := by
  cases q with
  | imm b => exact withOperand_withEnvOf (fun _ _ => rfl) (.imm b) s
  | mem m => unfold execBit; exact withOperand_withEnvOf (fun _ _ => rfl) (.mem m) s

theorem execJmp_withEnvOf (e : State) (m : JumpMode) (s : State) :
    execJmp m (s.withEnvOf e) = mapNext (·.withEnvOf e) (execJmp m s) := by
  cases m with
  | abs w => rfl
  | ind w | indX w => simp only [execJmp, State.read16_withEnvOf]; rfl

/-- An instruction passes the inputs, the latch and the counter through, whatever they are. -/
theorem exec_withEnvOf (e : State) (i : Instr) (s : State) :
    exec i (s.withEnvOf e) = mapNext (·.withEnvOf e) (exec i s) := by
  unfold exec
  cases i with
  | adc q | sbc q | and q | ora q | eor q | lda q | ldx q | ldy q | cmp q | cpx q | cpy q =>
    exact withOperand_withEnvOf (fun _ _ => rfl) q s
  | bit q => exact execBit_withEnvOf e q s
  | asl t | lsr t | rol t | ror t | inc t | dec t => exact modifyOperand_withEnvOf e _ t s
  | sta m | stx m | sty m | stz m => exact storeMem_withEnvOf e m _ s
  | trb m | tsb m => exact modifyBits_withEnvOf e m true _ s
  | rmb0 z | rmb1 z | rmb2 z | rmb3 z | rmb4 z | rmb5 z | rmb6 z | rmb7 z
  | smb0 z | smb1 z | smb2 z | smb3 z | smb4 z | smb5 z | smb6 z | smb7 z =>
    exact modifyBits_withEnvOf e (.zp z) false _ s
  | bbr0 z o | bbr1 z o | bbr2 z o | bbr3 z o | bbr4 z o | bbr5 z o | bbr6 z o | bbr7 z o
  | bbs0 z o | bbs1 z o | bbs2 z o | bbs3 z o | bbs4 z o | bbs5 z o | bbs6 z o | bbs7 z o =>
    exact branchOnBit_withEnvOf e _ _ z o s
  | bpl o | bmi o | bvc o | bvs o | bra o | bcc o | bcs o | bne o | beq o => exact branch_withEnvOf e _ o s
  | clc | cld | cli | clv | sec | sed | sei | inx | iny | dex | dey | tax | tay | txa | tya | tsx | txs | wai | stp =>
    exact implied_withEnvOf rfl
  | pha | php | phx | phy => exact implied_withEnvOf (State.push8_withEnvOf e _ s)
  | pla | plx | ply | plp => exact implied_withEnvOf (by simp only [State.pull8_withEnvOf]; rfl)
  | jmp m => exact execJmp_withEnvOf e m s
  | jsr w => exact congrArg (fun u => Host.Outcome.next (State.jump w u)) (State.push16_withEnvOf e (s.pc + 2) s)
  | rts => simp only [execRts, State.pull16_withEnvOf]; rfl
  | rti => exact congrArg Host.Outcome.next (State.returnFromInterrupt_withEnvOf e s)
  | brk => exact congrArg Host.Outcome.next (State.interrupt_withEnvOf e _ _ (s.jump (s.pc + 2)))
  | nop | nop1 op | nop2 op b | nop3 op b c => rfl

/-- Settles O47. -/
theorem instructionsDoNotLookAtTheInputs : Obligations.InstructionsDoNotLookAtTheInputs := by
  intro i s t ls pending k h
  have hpass := exec_withEnvOf { s with inputs := ls, nmiPending := pending, cycles := k } i s
  rw [h] at hpass
  exact hpass

/-! ### The cycle counter and the step -/

/-- Where the inputs, the latch and the counter of `t` are still those of `s`, to take those of `s` with the counter ahead
is to set the counter of `t` ahead. -/
theorem Frame.withEnvOf_tick {w : List Field} {l : List Word} {r : Prop} {s t : State} (h : Frame w l r s t) (k : Nat) :
    t.withEnvOf (s.tick k) = t.tick k := by
  rw [State.withEnvOf, State.tick_inputs, State.tick_nmiPending, State.tick_cycles, ← h.inputs, ← h.nmiPending,
    ← h.cycles]
  rfl

theorem State.read16_tick (b : Word) (s : State) (k : Nat) :
    (s.tick k).read16 b = ((s.read16 b).1, (s.read16 b).2.tick k) := by
  rw [← (State.read16_frame b s).withEnvOf_tick k]
  exact State.read16_withEnvOf (s.tick k) b s

theorem State.interrupt_tick (vector : Word) (brk : Bool) (s : State) (k : Nat) :
    (s.tick k).interrupt vector brk = (s.interrupt vector brk).tick k := by
  rw [← (State.interrupt_frame vector brk s).withEnvOf_tick k]
  exact State.interrupt_withEnvOf (s.tick k) vector brk s

theorem State.tick_tick (s : State) (j k : Nat) : (s.tick j).tick k = (s.tick k).tick j := by
  simp only [State.tick, Nat.add_right_comm]

theorem State.takeIrq_tick (s : State) (k : Nat) : (s.tick k).takeIrq = s.takeIrq.tick k := by
  rw [State.takeIrq, State.interrupt_tick, State.tick_tick, State.takeIrq]

theorem State.takeNmi_tick (s : State) (k : Nat) : (s.tick k).takeNmi = s.takeNmi.tick k := by
  have hlatch : { s.tick k with nmiPending := false } = State.tick k { s with nmiPending := false } := rfl
  rw [State.takeNmi, hlatch, State.interrupt_tick, State.tick_tick, State.takeNmi]

theorem State.takeReset_tick (s : State) (k : Nat) : (s.tick k).takeReset = s.takeReset.tick k := by
  have hdraw : ∀ w : ResetDraw, State.setDraw w
        { s.tick k with draws := s.draws + 1, i := true, d := false, nmiPending := false, run := .running } =
      (State.setDraw w
        { s with draws := s.draws + 1, i := true, d := false, nmiPending := false, run := .running }).tick k :=
    fun _ => rfl
  simp only [State.takeReset, State.tick_draws, hdraw, State.read16_tick]
  rfl

theorem exec_tick (i : Instr) (s : State) (k : Nat) : exec i (s.tick k) = tickOutcome k (exec i s) := by
  obtain ⟨t, ht, hf⟩ := exec_framed i s
  have hpass : exec i (s.tick k) = mapNext (·.withEnvOf (s.tick k)) (exec i s) := exec_withEnvOf (s.tick k) i s
  rw [hpass, ht, mapNext, hf.withEnvOf_tick k, tickOutcome_next]

theorem load_fst_tick (b : Word) (s : State) (k : Nat) : ((s.tick k).load b).1 = (s.load b).1 := by
  have h := congrArg Prod.fst (State.load_withEnvOf (s.tick k) b s)
  exact h

theorem readCycles_tick (m : AddrMode) (s : State) (k : Nat) : readCycles m (s.tick k) = readCycles m s := by
  cases m with
  | indY z =>
    have hpointer : ((s.tick k).read16zp z).1 = (s.read16zp z).1 := by
      have h := congrArg Prod.fst (State.read16zp_withEnvOf (s.tick k) z s)
      exact h
    simp only [readCycles, pointerCarry, hpointer, State.tick_y]
  | _ => rfl

/-- The cycle count of an instruction does not depend on the counter. -/
theorem instrCycles_tick (i : Instr) (s : State) (k : Nat) : instrCycles i (s.tick k) = instrCycles i s := by
  cases i with
  | adc q | sbc q | and q | bit q | cmp q | cpx q | cpy q | eor q | lda q | ldx q | ldy q | ora q =>
    cases q with
    | imm b => rfl
    | mem m => simp only [instrCycles, sourceCycles, readCycles_tick, State.tick_d]
  | bbr0 z o | bbr1 z o | bbr2 z o | bbr3 z o | bbr4 z o | bbr5 z o | bbr6 z o | bbr7 z o
  | bbs0 z o | bbs1 z o | bbs2 z o | bbs3 z o | bbs4 z o | bbs5 z o | bbs6 z o | bbs7 z o =>
    simp only [instrCycles, bitBranchCycles, load_fst_tick, State.tick_pc]
  | jmp m => cases m <;> rfl
  | _ => rfl

theorem tickOutcome_tickOutcome (j k : Nat) (o : Host.Outcome State Fault Refusal) :
    tickOutcome j (tickOutcome k o) = tickOutcome k (tickOutcome j o) := by
  cases o with
  | next t => simp only [tickOutcome_next, State.tick_tick]
  | fault f => rfl
  | refused r => rfl

theorem executeOne_tick (s : State) (k : Nat) : executeOne (s.tick k) = tickOutcome k (executeOne s) := by
  have hfetch : (s.tick k).fetch = s.fetch := State.fetch_congr rfl rfl rfl
  unfold executeOne
  rw [hfetch]
  cases s.fetch with
  | error r => rfl
  | ok i => simp only [instrCycles_tick, exec_tick, tickOutcome_tickOutcome]

/-- Settles O59: at each branch of the boundary the counter is ahead by as much after as before. -/
theorem cycleCounterIsNeverRead : Obligations.CycleCounterIsNeverRead := by
  intro s k
  have hlines : (s.tick k).lines = s.lines := rfl
  have hsampled : (s.tick k).sampled = s.sampled.tick k := rfl
  unfold step stepAtBoundary
  simp only [hlines, hsampled, State.takeReset_tick, State.takeNmi_tick, State.takeIrq_tick, executeOne_tick,
    State.tick_run, State.tick_nmiPending, State.tick_i, apply_ite (tickOutcome k), tickOutcome_next,
    apply_ite (State.tick k)]
  rw [State.tick_tick]
  rfl

end Sys2Proof.Machine

/-! What happens at a boundary (R304 to R314, R341): O48 to O53, with the interrupt sequence of R306 said once. -/

namespace Sys2Proof.Machine

/-! ### Words and stack addresses as numbers -/

theorem word_toNat_add (h l : Byte) : (word h l).toNat = l.toNat + 256 * h.toNat := by
  rw [word_toNat, Nat.add_comm]

theorem stackAddr_toNat (q : Byte) : (stackAddr q).toNat = 256 + q.toNat :=
  word_toNat 0x01#8 q

theorem stackAddr_inj {p q : Byte} : stackAddr p = stackAddr q ↔ p = q := by
  rw [← BitVec.toNat_inj, ← BitVec.toNat_inj, stackAddr_toNat, stackAddr_toNat]
  omega

/-- No stack address lies above page one. -/
theorem ne_stackAddr {w : Word} (hw : 512 ≤ w.toNat) (q : Byte) : w ≠ stackAddr q := by
  have hq := q.isLt
  intro h
  rw [h, stackAddr_toNat] at hw
  omega

theorem sub_one_sub_one (q : Byte) : q - 1 - 1 = q - 2 := by bv_omega

theorem sub_one_sub_one_sub_one (q : Byte) : q - 1 - 1 - 1 = q - 3 := by bv_omega

/-! ### The interrupt sequence -/

/-- The bytes an interrupt sequence leaves in a RAM stack: PC, high byte first, and below it the image of SR. -/
theorem State.interrupt_stack (vector : Word) (brk : Bool) {s : State} (hwf : s.mem.wf = true)
    (h0 : s.isRam (stackAddr s.sp)) (h1 : s.isRam (stackAddr (s.sp - 1))) (h2 : s.isRam (stackAddr (s.sp - 2))) :
    (s.interrupt vector brk).peek (stackAddr s.sp) = hi s.pc ∧
    (s.interrupt vector brk).peek (stackAddr (s.sp - 1)) = lo s.pc ∧
    (s.interrupt vector brk).peek (stackAddr (s.sp - 2)) = s.srImage brk := by
  have hpeek : ∀ e, (s.interrupt vector brk).peek e = ((s.push16 s.pc).push8 (s.srImage brk)).peek e := fun e => by
    rw [State.peek, State.interrupt_mem, State.push16_srImage, State.peek]
  have hsp : (s.push16 s.pc).sp = s.sp - 2 := by rw [State.push16_sp, sub_one_sub_one]
  have h01 : s.sp ≠ s.sp - 1 := by bv_omega
  have h02 : s.sp ≠ s.sp - 2 := by bv_omega
  have h12 : s.sp - 1 ≠ s.sp - 2 := by bv_omega
  refine ⟨?_, ?_, ?_⟩
  · rw [hpeek, State.push8_peek_ne _ _ (by rw [hsp, Ne, stackAddr_inj]; exact h02), State.push16_peek _ hwf,
      if_neg (by rw [stackAddr_inj]; exact fun h => h01 h.1), if_pos ⟨rfl, h0⟩]
  · rw [hpeek, State.push8_peek_ne _ _ (by rw [hsp, Ne, stackAddr_inj]; exact h12), State.push16_peek _ hwf,
      if_pos ⟨rfl, h1⟩]
  · rw [hpeek, State.push8_peek _ (State.push16_wf hwf), hsp, if_pos ⟨rfl, by rw [State.push16_region]; exact h2⟩]

/-- PC after an interrupt sequence: the word at the vector, low byte first, which the pushes do not reach. -/
theorem State.interrupt_pc {vector : Word} (brk : Bool) {s : State} (hv : 512 ≤ vector.toNat)
    (hv' : 512 ≤ (vector + 1).toNat) (hm : s.isMemory vector) (hm' : s.isMemory (vector + 1)) :
    (s.interrupt vector brk).pc.toNat = (s.peek vector).toNat + 256 * (s.peek (vector + 1)).toNat := by
  have hf := State.interrupted_frame brk s
  have hpeek : ∀ e : Word, 512 ≤ e.toNat → (s.interrupted brk).peek e = s.peek e := fun e he =>
    hf.peek_outside e (by simp [ne_stackAddr he])
  have hread : (s.interrupted brk).read16 vector =
      (word (s.peek (vector + 1)) (s.peek vector), s.interrupted brk) := by
    rw [← hpeek vector hv, ← hpeek (vector + 1) hv']
    exact State.read16_of_memory (by rw [State.region_congr hf.regions]; exact hm)
      (by rw [State.region_congr hf.regions]; exact hm')
  rw [State.interrupt_eq, State.setRun_pc, State.jump_pc, hread, word_toNat_add]

/-- All that O38, O50 and O51 say of an interrupt sequence through a vector above page one, from `s` to `t`. -/
structure Interrupts (vector : Word) (brk : Bool) (ret : Word) (s t : State) : Prop where
  sp : t.sp = s.sp - 3
  i : t.i = true
  d : t.d = false
  run : t.run = .running
  a : t.a = s.a
  x : t.x = s.x
  y : t.y = s.y
  n : t.n = s.n
  v : t.v = s.v
  z : t.z = s.z
  c : t.c = s.c
  stack : s.mem.wf = true → s.isRam (stackAddr s.sp) → s.isRam (stackAddr (s.sp - 1)) →
    s.isRam (stackAddr (s.sp - 2)) →
    (t.peek (stackAddr s.sp)).toNat = ret.toNat / 256 ∧ (t.peek (stackAddr (s.sp - 1))).toNat = ret.toNat % 256 ∧
      t.peek (stackAddr (s.sp - 2)) = s.srImage brk
  outside : ∀ e : Word, e ≠ stackAddr s.sp → e ≠ stackAddr (s.sp - 1) → e ≠ stackAddr (s.sp - 2) → t.peek e = s.peek e
  pc : s.isMemory vector → s.isMemory (vector + 1) →
    t.pc.toNat = (s.peek vector).toNat + 256 * (s.peek (vector + 1)).toNat

/-- The interrupt sequence does what R306 says, with PC the return address. -/
theorem State.interrupt_interrupts {vector : Word} (brk : Bool) (s : State) (hv : 512 ≤ vector.toNat)
    (hv' : 512 ≤ (vector + 1).toNat) : Interrupts vector brk s.pc s (s.interrupt vector brk) where
  sp := by rw [State.interrupt_sp, sub_one_sub_one_sub_one]
  i := State.interrupt_i vector brk s
  d := State.interrupt_d vector brk s
  run := State.interrupt_run vector brk s
  a := State.interrupt_a vector brk s
  x := State.interrupt_x vector brk s
  y := State.interrupt_y vector brk s
  n := State.interrupt_n vector brk s
  v := State.interrupt_v vector brk s
  z := State.interrupt_z vector brk s
  c := State.interrupt_c vector brk s
  stack hwf h0 h1 h2 := by
    obtain ⟨hhi, hlo, hsr⟩ := State.interrupt_stack vector brk hwf h0 h1 h2
    exact ⟨by rw [hhi, hi_toNat], by rw [hlo, lo_toNat], hsr⟩
  outside e h0 h1 h2 := (State.interrupt_frame vector brk s).peek_outside e (by simpa using ⟨h0, h1, h2⟩)
  pc := State.interrupt_pc brk hv hv'

/-- The count of its cycles hides nothing of a sequence. -/
theorem Interrupts.tick {vector ret : Word} {brk : Bool} {s t : State} (h : Interrupts vector brk ret s t) (k : Nat) :
    Interrupts vector brk ret s (t.tick k) :=
  ⟨h.sp, h.i, h.d, h.run, h.a, h.x, h.y, h.n, h.v, h.z, h.c, h.stack, h.outside, h.pc⟩

theorem State.takeIrq_interrupts (s : State) : Interrupts Config.irqVector false s.pc s s.takeIrq :=
  (State.interrupt_interrupts false s (by decide) (by decide)).tick sequenceCycles

theorem State.takeNmi_interrupts (s : State) : Interrupts Config.nmiVector false s.pc s s.takeNmi :=
  have h := (State.interrupt_interrupts (vector := Config.nmiVector) false { s with nmiPending := false } (by decide)
    (by decide)).tick sequenceCycles
  ⟨h.sp, h.i, h.d, h.run, h.a, h.x, h.y, h.n, h.v, h.z, h.c, h.stack, h.outside, h.pc⟩

theorem State.takeIrq_nmiPending (s : State) : s.takeIrq.nmiPending = s.nmiPending := by
  rw [State.takeIrq, State.tick_nmiPending, State.interrupt_nmiPending]

theorem State.takeNmi_nmiPending (s : State) : s.takeNmi.nmiPending = false := by
  rw [State.takeNmi, State.tick_nmiPending, State.interrupt_nmiPending]

/-! ### O50 to O53: the interrupts at the boundary, and the two states in which nothing executes -/

/-- At a boundary with a pending NMI and no reset the step is the NMI sequence (R309). -/
theorem step_of_nmi {s : State} (hreset : s.lines.resb = false) (hrun : s.run ≠ .stopped)
    (hnmi : s.sampled.nmiPending = true) : step s = .next s.sampled.takeNmi := by
  simp [step, stepAtBoundary, hreset, hrun, hnmi, -State.sampled_nmiPending]

/-- Settles O50: the step is the NMI sequence, whose clauses are those of `Interrupts`. -/
theorem nmiTakesPrecedenceOverIrqAndIsNotMasked : Obligations.NmiTakesPrecedenceOverIrqAndIsNotMasked := by
  intro s hreset hrun hnmi
  have hpending : s.sampled.nmiPending = true := by
    rw [State.sampled_nmiPending, Bool.or_eq_true]
    exact hnmi
  have h := State.takeNmi_interrupts s.sampled
  exact ⟨_, step_of_nmi hreset hrun hpending, h.sp, h.i, h.d, h.run, State.takeNmi_nmiPending _, h.a, h.x, h.y, h.n,
    h.v, h.z, h.c, h.stack, h.outside, h.pc⟩

/-- At a boundary with the IRQ line low, I = 0, and neither reset nor NMI the step is the IRQ sequence (R305, R309). -/
theorem step_of_irq {s : State} (hreset : s.lines.resb = false) (hrun : s.run ≠ .stopped)
    (hnmi : s.sampled.nmiPending = false) (hirq : s.lines.irqLow = true) (hi : s.i = false) :
    step s = .next s.sampled.takeIrq := by
  simp [step, stepAtBoundary, hreset, hrun, hnmi, hirq, hi, -State.sampled_nmiPending]

/-- Settles O51: the step is the IRQ sequence, whose clauses are those of `Interrupts`. -/
theorem irqIsTakenWhenUnmasked : Obligations.IrqIsTakenWhenUnmasked := by
  intro s hreset hrun hpending hedge hirq hi
  have hnmi : s.sampled.nmiPending = false := by rw [State.sampled_nmiPending, hpending, hedge, Bool.or_false]
  have h := State.takeIrq_interrupts s.sampled
  exact ⟨_, step_of_irq hreset hrun hnmi hirq hi, h.sp, h.i, h.d, h.run, (State.takeIrq_nmiPending _).trans hnmi, h.a,
    h.x, h.y, h.n, h.v, h.z, h.c, h.stack, h.outside, h.pc⟩

/-- The IRQ line is looked at in two places, masked by I in the first, and in the second only while waiting. -/
theorem step_congr_of_masked {s t : State} (hsampled : s.sampled = t.sampled) (hreset : s.lines.resb = t.lines.resb)
    (hi : t.i = true) (hrun : t.run ≠ .waiting) : step s = step t := by
  simp [step, stepAtBoundary, hsampled, hreset, hi, hrun]

/-- Settles O52. -/
theorem maskedIrqLineIsIgnoredWhileRunning : Obligations.MaskedIrqLineIsIgnoredWhileRunning :=
  fun _ _ _ hi hrun => step_congr_of_masked rfl rfl hi hrun

/-- Settles O53, by the order of the tests at the boundary (R309). -/
theorem waitingAndStoppedKeepEverything : Obligations.WaitingAndStoppedKeepEverything := by
  intro s hreset
  refine ⟨fun hrun => ?stopped, fun hrun hpending hedge hirq => ?waits, fun hrun hpending hedge hirq hi => ?wakes⟩
  case stopped => simp [step, stepAtBoundary, hreset, hrun, State.sampled]
  case waits => simp [step, stepAtBoundary, hreset, hrun, hpending, hedge, hirq, State.sampled]
  case wakes => simp [step, stepAtBoundary, hreset, hrun, hpending, hedge, hirq, hi, State.sampled, State.setRun]

/-! ### O49: reset -/

/-- With RAM or ROM at the reset vector PC is the word there, and no device sees an access (R341). -/
theorem State.takeReset_of_memory {s : State} (hm : s.isMemory Config.resetVector)
    (hm' : s.isMemory (Config.resetVector + 1)) :
    s.takeReset.pc = word (s.peek (Config.resetVector + 1)) (s.peek Config.resetVector) ∧
      s.takeReset.ioLog = s.ioLog := by
  have hread := State.read16_of_memory (s := State.setDraw (Config.resetDraw s.draws)
    { s with draws := s.draws + 1, i := true, d := false, nmiPending := false, run := .running }) hm hm'
  simp only [State.takeReset, hread]
  exact ⟨rfl, rfl⟩

/-- Settles O49: the step is the reset sequence, which leaves memory alone and reads its vector from it. -/
theorem resetSequenceLoadsPcFromItsVector : Obligations.ResetSequenceLoadsPcFromItsVector := by
  intro s hreset
  have hstep : step s = .next (s.sampled.takeReset.tick sequenceCycles) := by simp [step, stepAtBoundary, hreset]
  refine ⟨_, hstep, by simp, by simp, by simp, by simp, by simp, by simp, by simp, fun hm hm' => ?_⟩
  obtain ⟨hpc, hlog⟩ := State.takeReset_of_memory (s := s.sampled) hm hm'
  rw [State.tick_pc, hpc, word_toNat_add, State.tick_ioLog, hlog]
  exact ⟨rfl, rfl⟩

/-! ### O48: execution at the boundary -/

/-- The operand bytes of an instruction, at most two, where they stand in RAM or ROM. -/
theorem State.fetchBytes_of_memory {s : State} {n : Nat} (hn : n ≤ 2) {b : Word}
    (hm : ∀ k, k < n → s.isMemory (b + BitVec.ofNat 16 k)) :
    s.fetchBytes n b = .ok ([s.peek b, s.peek (b + 1)].take n) := by
  have first : 0 < n → s.fetchByte b = .ok (s.peek b) := fun h =>
    State.fetchByte_of_memory (by simpa [State.isMemory] using hm 0 h)
  have second : 1 < n → s.fetchByte (b + 1) = .ok (s.peek (b + 1)) := fun h => State.fetchByte_of_memory (hm 1 h)
  match n with
  | 0 => rfl
  | 1 => simp only [State.fetchBytes, first (by omega)]; rfl
  | 2 => simp only [State.fetchBytes, first (by omega), second (by omega)]; rfl

/-- The decoder does not use the bytes that LEN does not take in: it gives the same for the bytes of the instruction
alone, since what it answers comes back from its own bytes. -/
theorem decodeOpcode_take (op b1 b2 : Byte) :
    decodeOpcode op (([b1, b2].take (opcodeLength op - 1)).getD 0 0)
      (([b1, b2].take (opcodeLength op - 1)).getD 1 0) = decodeOpcode op b1 b2 := by
  have hback := decodeOfEncodeGivesTheInstructionBack (decodeOpcode op b1 b2) [] (decodeOpcode_wellFormed op b1 b2)
  rw [encode_decodeOpcode, List.append_nil] at hback
  obtain ⟨n, hn⟩ : ∃ n, opcodeLength op = n + 1 := ⟨opcodeLength op - 1, by have := opcodeLength_pos op; omega⟩
  rw [hn, List.take_succ_cons, decode] at hback
  rw [hn]
  split at hback
  · cases hback
  · have hinstr := (Prod.mk.inj (Except.ok.inj hback)).1
    simpa using hinstr

/-- The fetch answers the decoded instruction, where its own bytes stand in RAM or ROM. -/
theorem State.fetch_of_decode {s : State} {i : Instr} {rest : List Byte}
    (hm : ∀ k : Nat, k < i.len → s.isMemory (s.pc + BitVec.ofNat 16 k))
    (hdec : decode [s.peek s.pc, s.peek (s.pc + 1), s.peek (s.pc + 2)] = .ok (i, rest)) : s.fetch = .ok i := by
  have hi : decodeOpcode (s.peek s.pc) (s.peek (s.pc + 1)) (s.peek (s.pc + 2)) = i := by
    rw [decode] at hdec
    split at hdec
    · cases hdec
    · exact (Prod.mk.inj (Except.ok.inj hdec)).1
  obtain ⟨hlen, hlen'⟩ := lengthOfEveryOpcodeByte (s.peek s.pc) (s.peek (s.pc + 1)) (s.peek (s.pc + 2))
  rw [hi, ← hlen] at hlen'
  have hpos := opcodeLength_pos (s.peek s.pc)
  have hle := opcodeLength_le_three (s.peek s.pc)
  have hop : s.fetchByte s.pc = .ok (s.peek s.pc) :=
    State.fetchByte_of_memory (by simpa [State.isMemory] using hm 0 (by omega))
  have hbytes : s.fetchBytes (opcodeLength (s.peek s.pc) - 1) (s.pc + 1) =
      .ok ([s.peek (s.pc + 1), s.peek (s.pc + 2)].take (opcodeLength (s.peek s.pc) - 1)) := by
    have hnext : s.pc + 1 + 1 = s.pc + 2 := by bv_omega
    rw [← hnext]
    refine State.fetchBytes_of_memory (by omega) fun k hk => ?_
    have hk' : s.pc + 1 + BitVec.ofNat 16 k = s.pc + BitVec.ofNat 16 (k + 1) := by
      rw [BitVec.add_assoc, Nat.add_comm, BitVec.ofNat_add]
      rfl
    rw [hk']
    exact hm (k + 1) (by omega)
  rw [State.fetch, hop]
  simp only [hbytes, decodeOpcode_take, hi]

/-- A boundary where only execution can happen executes (R308, R309). -/
theorem step_of_onlyExecutes {s : State} (h : s.onlyExecutes) : step s = executeOne s.sampled := by
  obtain ⟨hrun, hreset, hedge, hpending, hirq⟩ := h
  cases hl : s.lines.irqLow with
  | false => simp [step, stepAtBoundary, hreset, hrun, hedge, hpending, hl]
  | true => simp [step, stepAtBoundary, hreset, hrun, hedge, hpending, hl, hirq hl]

/-- Settles O48: the boundary executes, the fetch answers the decoded instruction, and the count of its cycles is added. -/
theorem stepRunsTheDecodedInstruction : Obligations.StepRunsTheDecodedInstruction := by
  intro s i rest hexec hm hdec
  obtain ⟨t, ht, -⟩ := exec_framed i s.sampled
  have hfetch : s.sampled.fetch = .ok i := by
    rw [State.fetch_congr (s := s) (t := s.sampled) rfl rfl rfl]
    exact State.fetch_of_decode hm hdec
  refine ⟨t, ht, ?_⟩
  rw [step_of_onlyExecutes hexec, executeOne, hfetch]
  simp only [ht, tickOutcome_next]
  rfl

end Sys2Proof.Machine

/-! Memory, operands, the stack page and the image of SR as numbers: O1, O6 to O10, O12, O13 and O55. -/

namespace Sys2Proof.Machine

/-! ### Addresses as numbers -/

theorem word_eq_ofNat (h l : Byte) : word h l = BitVec.ofNat 16 (l.toNat + 256 * h.toNat) := by
  rw [← word_toNat_add, BitVec.ofNat_toNat, BitVec.setWidth_eq]

theorem zext_eq_ofNat (z : Byte) : zext z = BitVec.ofNat 16 z.toNat := by
  rw [← zext_toNat z, BitVec.ofNat_toNat, BitVec.setWidth_eq]

/-- A sum in zero page wraps modulo 256 (R88). -/
theorem zext_add (z q : Byte) : zext (z + q) = BitVec.ofNat 16 ((z.toNat + q.toNat) % 256) := by
  rw [zext_eq_ofNat, BitVec.toNat_add]

/-- An index added to an address wraps modulo 65536. -/
theorem add_zext (w : Word) (q : Byte) : w + zext q = BitVec.ofNat 16 ((w.toNat + q.toNat) % 65536) := by
  refine BitVec.eq_of_toNat_eq ?_
  rw [BitVec.toNat_add, zext_toNat, BitVec.toNat_ofNat, Nat.mod_mod]

theorem add_one_eq_ofNat (w : Word) : w + 1 = BitVec.ofNat 16 ((w.toNat + 1) % 65536) := by
  refine BitVec.eq_of_toNat_eq ?_
  rw [BitVec.toNat_add, BitVec.toNat_ofNat, Nat.mod_mod]
  rfl

/-! ### O6 to O8: reads and writes -/

/-- Settles O6: the three branches of a read. -/
theorem readAnswersByRegion : Obligations.ReadAnswersByRegion := by
  refine fun b s => ⟨State.load_of_memory, fun hio => ?io, fun hun => ?unmapped⟩
  case io => rw [State.load, hio]
  case unmapped => rw [State.load, hun]

/-- Settles O7. -/
theorem writeActsByRegion : Obligations.WriteActsByRegion := by
  intro b v s
  refine ⟨fun hwf hram => ?ram, fun e he => State.store_peek_ne v s he,
    fun hram => State.store_peek_of_not_ram v hram b, fun hio => ?io, fun hio => ?other, State.store_wf⟩
  case ram => rw [State.store_peek b v hwf, if_pos ⟨rfl, hram⟩]
  case io => rw [State.store, hio]
  case other => cases h : s.region b <;> simp_all [State.store]

/-- Settles O8: the successor of the low byte's address, as a number, is the one `Read16` and `Read16zp` take. -/
theorem sixteenBitReadsAreLittleEndianAndWrap : Obligations.SixteenBitReadsAreLittleEndianAndWrap := by
  refine ⟨fun b s hm hm' => ?absolute, fun z s hm hm' => ?zeroPage⟩
  case absolute =>
    rw [← add_one_eq_ofNat] at hm' ⊢
    rw [State.read16_of_memory hm hm', word_eq_ofNat]
  case zeroPage =>
    have hnext : zext (z + 1) = BitVec.ofNat 16 ((z.toNat + 1) % 256) := zext_add z 1
    rw [← zext_eq_ofNat] at hm ⊢
    rw [← hnext] at hm' ⊢
    rw [State.read16zp_of_memory hm hm', word_eq_ofNat]

/-! ### O9 and O10: effective addresses and operands -/

/-- A zero-page pointer in RAM or ROM at the addresses `l` and `h`. -/
theorem State.read16zp_at {s : State} {q : Byte} {l h : Word} (hl : l = zext q) (hh : h = zext (q + 1))
    (hm : s.isMemory l) (hm' : s.isMemory h) :
    s.read16zp q = (BitVec.ofNat 16 ((s.peek l).toNat + 256 * (s.peek h).toNat), s) := by
  subst hl hh
  rw [State.read16zp_of_memory hm hm', word_eq_ofNat]

/-- Settles O9, mode by mode. -/
theorem effectiveAddressOfEveryMode : Obligations.EffectiveAddressOfEveryMode := by
  intro s
  have hsucc : ∀ z : Byte, BitVec.ofNat 16 ((z.toNat + 1) % 256) = zext (z + 1) := fun z => (zext_add z 1).symm
  refine ⟨fun z => ?zp, fun z => ?zpX, fun z => ?zpY, fun b => rfl, fun b => ?absX, fun b => ?absY,
    fun z l h hl hh hm hm' => ?indX, fun z l h hl hh hm hm' => ?indY, fun z l h hl hh hm hm' => ?ind⟩
  case zp => rw [← zext_eq_ofNat, effAddr]
  case zpX => rw [← zext_add, effAddr]
  case zpY => rw [← zext_add, effAddr]
  case absX => rw [← add_zext, effAddr]
  case absY => rw [← add_zext, effAddr]
  case indX =>
    have hh' : h = zext (z + s.x + 1) := by
      rw [hh, ← hsucc, BitVec.toNat_add, Nat.mod_add_mod]
    exact State.read16zp_at (by rw [hl, zext_add]) hh' hm hm'
  case indY =>
    rw [effAddr, State.read16zp_at (by rw [hl, zext_eq_ofNat]) (by rw [hh, hsucc]) hm hm']
    simp only [add_zext, BitVec.toNat_ofNat, Nat.reducePow, Nat.mod_add_mod]
  case ind => exact State.read16zp_at (by rw [hl, zext_eq_ofNat]) (by rw [hh, hsucc]) hm hm'

/-- Settles O10. -/
theorem operandIsTheImmediateOrTheByteAtTheEffectiveAddress :
    Obligations.OperandIsTheImmediateOrTheByteAtTheEffectiveAddress := by
  refine fun s => ⟨fun b => rfl, fun m e he hm => ?_⟩
  rw [operand, loadMem, he]
  exact State.load_of_memory hm

/-! ### O12: the stack page -/

/-- Settles O12: a pull after a push adds back what the push took from SP. -/
theorem stackWrapsInPageOne : Obligations.StackWrapsInPageOne := by
  refine ⟨stackAddr_toNat, fun v s hsp => ?push, fun s hsp => ?pull, fun v s hwf hram => ?back⟩
  case push =>
    rw [State.push8_spec, hsp]
    rfl
  case pull =>
    rw [State.pull8, hsp]
    rfl
  case back =>
    have hsp : (s.push8 v).sp + 1 = s.sp := by rw [State.push8_sp, BitVec.sub_add_cancel]
    have hram' : (s.push8 v).region (stackAddr ((s.push8 v).sp + 1)) = .ram := by
      rw [hsp, State.push8_region]
      exact hram
    rw [State.pull8_of_memory (.inl hram'), hsp]
    exact ⟨State.push8_peek_stackAddr v hwf hram, rfl⟩

/-! ### O13: the image of SR -/

/-- The eight bits of the image (R34). -/
theorem State.srImage_bits (brk : Bool) (s : State) :
    (s.srImage brk).getLsbD 7 = s.n ∧ (s.srImage brk).getLsbD 6 = s.v ∧ (s.srImage brk).getLsbD 5 = true ∧
    (s.srImage brk).getLsbD 4 = brk ∧ (s.srImage brk).getLsbD 3 = s.d ∧ (s.srImage brk).getLsbD 2 = s.i ∧
    (s.srImage brk).getLsbD 1 = s.z ∧ (s.srImage brk).getLsbD 0 = s.c := by
  unfold State.srImage
  simp only [BitVec.getLsbD_append, BitVec.getLsbD_ofBool]
  simp

theorem State.srLoad_srImage (brk : Bool) (s t : State) :
    t.srLoad (s.srImage brk) = { t with n := s.n, v := s.v, d := s.d, i := s.i, z := s.z, c := s.c } := by
  obtain ⟨hn, hv, -, -, hd, hi, hz, hc⟩ := State.srImage_bits brk s
  rw [State.srLoad, hn, hv, hd, hi, hz, hc]

/-- Settles O13. -/
theorem statusImageAndItsInverse : Obligations.StatusImageAndItsInverse := by
  refine fun brk s t q => ⟨State.srImage_bits brk s, State.srLoad_srImage brk s t, ?sets, ?clears⟩
  case sets => simp [State.srLoad]
  case clears => simp [State.srLoad]

/-! ### O1 and O55: fixed words and the fixed state after reset -/

/-- Settles O1. -/
theorem writtenOutBytesDecode : Obligations.WrittenOutBytesDecode :=
  ⟨rfl, rfl, rfl, rfl, rfl, rfl, rfl, rfl, rfl, rfl, rfl, rfl, rfl, rfl, rfl, rfl⟩

/-- Settles O55. -/
theorem resetStateIsAsTheSpecSays : Obligations.ResetStateIsAsTheSpecSays :=
  ⟨rfl, rfl, rfl, rfl, rfl, State.reset_wf⟩

end Sys2Proof.Machine

/-! The instructions that read their operand: loads, logic, BIT, arithmetic and compares. O15 and O17 to O23. -/

namespace Sys2Proof.Machine

/-! ### N and Z of a result (R33) -/

theorem byte_eq_zero_iff (v : Byte) : (v == 0) = true ↔ v.toNat = 0 := by
  rw [beq_iff_eq, ← BitVec.toNat_inj]
  rfl

theorem State.showsNZ_of {v : Byte} {t : State} (hn : t.n = v.getLsbD 7) (hz : t.z = (v == 0)) : t.showsNZ v :=
  ⟨by rw [hn]; exact byte_getLsbD_seven_iff v, by rw [hz]; exact byte_eq_zero_iff v⟩

/-- PC after an instruction that reads its operand, and what is done with the byte leaves PC alone. -/
theorem operand_advance_pc {f : Byte → State → State} (hf : ∀ b t, (f b t).pc = t.pc) (q : Source) (s : State) :
    ((f (operand q s).1 (operand q s).2).advance q.len).pc = s.pc + BitVec.ofNat 16 q.len := by
  rw [State.advance_pc, hf, operand_pc]

/-! ### O15, O17 and O18 -/

/-- Settles O15: the byte of the operand is the register's, and `SetNZ` follows. -/
theorem loadsSetTheRegisterAndNZ : Obligations.LoadsSetTheRegisterAndNZ := by
  refine fun q s => ⟨⟨_, rfl, rfl, State.showsNZ_of rfl rfl, ?lda⟩, ⟨_, rfl, rfl, State.showsNZ_of rfl rfl, ?ldx⟩,
    ⟨_, rfl, rfl, State.showsNZ_of rfl rfl, ?ldy⟩⟩
  case lda => exact operand_advance_pc (f := fun m t => State.setNZ m { t with a := m }) (fun _ _ => rfl) q s
  case ldx => exact operand_advance_pc (f := fun m t => State.setNZ m { t with x := m }) (fun _ _ => rfl) q s
  case ldy => exact operand_advance_pc (f := fun m t => State.setNZ m { t with y := m }) (fun _ _ => rfl) q s

/-- A logical instruction: A combined with the operand by `g`, and N and Z of the result. -/
theorem logical_spec (g : Byte → Byte → Byte) (q : Source) (s : State) :
    ∃ t, withOperand q (fun m t => State.setNZ (g t.a m) { t with a := g t.a m }) s = .next t ∧
      t.a = g s.a (operand q s).1 ∧ t.showsNZ (g s.a (operand q s).1) ∧ t.pc = s.pc + BitVec.ofNat 16 q.len := by
  refine ⟨_, rfl, ?_, State.showsNZ_of ?_ ?_, ?_⟩ <;> simp

/-- Settles O17. -/
theorem logicalInstructionsCombineAWithTheOperand : Obligations.LogicalInstructionsCombineAWithTheOperand :=
  fun q s => ⟨logical_spec (· &&& ·) q s, logical_spec (· ||| ·) q s, logical_spec (· ^^^ ·) q s⟩

/-- Settles O18: the immediate form writes Z alone, the memory forms N and V from bits 7 and 6 as well. -/
theorem bitTestsTheOperandAgainstA : Obligations.BitTestsTheOperandAgainstA := by
  refine fun s => ⟨fun m => ⟨_, rfl, ?z, rfl, rfl, ?pc⟩, fun b => ⟨_, rfl, beq_iff_eq, rfl, rfl, rfl⟩⟩
  case z => simp
  case pc => simp [Source.len]

/-! ### Binary addition (R121) -/

theorem byte_getLsbD_seven (v : Byte) : v.getLsbD 7 = decide (128 ≤ v.toNat) := by
  rw [Bool.eq_iff_iff, byte_getLsbD_seven_iff, decide_eq_true_iff]

theorem byte_toInt (v : Byte) : v.toInt = if v.toNat < 128 then (v.toNat : Int) else v.toNat - 256 := by
  rw [BitVec.toInt_eq_toNat_cond]
  split <;> split <;> omega

theorem b2n_le_one (p : Bool) : b2n p ≤ 1 := by cases p <;> decide

theorem addBinary_r (a m : Byte) (c : Bool) : (addBinary a m c).r.toNat = (a.toNat + m.toNat + b2n c) % 256 := by
  rw [addBinary, BitVec.toNat_ofNat]

theorem addBinary_c (a m : Byte) (c : Bool) : (addBinary a m c).c = true ↔ 255 < a.toNat + m.toNat + b2n c := by
  rw [addBinary, decide_eq_true_iff]

/-- V of the adder is the signed overflow: operands of one sign whose sum has the other. -/
theorem addBinary_v (a m : Byte) (c : Bool) :
    (addBinary a m c).v = true ↔
      a.toInt + m.toInt + (b2n c : Int) < -128 ∨ 127 < a.toInt + m.toInt + (b2n c : Int) := by
  have hv : (addBinary a m c).v = (a.getLsbD 7 == m.getLsbD 7 && (addBinary a m c).r.getLsbD 7 != a.getLsbD 7) := rfl
  have hr := addBinary_r a m c
  have ha := a.isLt
  have hm := m.isLt
  have hc := b2n_le_one c
  rw [hv, byte_getLsbD_seven, byte_getLsbD_seven, byte_getLsbD_seven, hr, byte_toInt, byte_toInt]
  simp only [Bool.and_eq_true, beq_iff_eq, bne_iff_ne, ne_eq, decide_eq_decide]
  split <;> split <;> omega

/-! ### O19 to O22: ADC and SBC -/

/-- ADC and SBC assign one result of the adder to A, C and V, with N and Z of the new A. -/
theorem alu_spec {g : Byte → State → AluResult} {q : Source} {s : State} {r : AluResult}
    (hg : g (operand q s).1 (operand q s).2 = r) :
    ∃ t, withOperand q (fun m t => t.setAlu (g m t)) s = .next t ∧ t.a = r.r ∧ t.c = r.c ∧ t.v = r.v ∧
      t.showsNZ t.a ∧ t.pc = s.pc + BitVec.ofNat 16 q.len := by
  subst hg
  exact ⟨_, rfl, rfl, rfl, rfl, State.showsNZ_of rfl rfl,
    operand_advance_pc (f := fun m t => t.setAlu (g m t)) (fun _ _ => rfl) q s⟩

/-- Reading the operand leaves what the results of ADC and SBC depend on. -/
theorem adcResult_operand (m : Byte) (q : Source) (s : State) : adcResult m (operand q s).2 = adcResult m s := by
  simp only [adcResult, operand_a, operand_c, operand_d]

theorem sbcResult_operand (m : Byte) (q : Source) (s : State) : sbcResult m (operand q s).2 = sbcResult m s := by
  simp only [sbcResult, operand_a, operand_c, operand_d]

/-- Settles O19. -/
theorem adcBinaryIsTheSumWithCarryAndSignedOverflow : Obligations.AdcBinaryIsTheSumWithCarryAndSignedOverflow := by
  intro q s m hd hm
  have hresult : adcResult (operand q s).1 (operand q s).2 = addBinary s.a m s.c := by
    rw [adcResult_operand, hm, adcResult, hd, if_neg Bool.false_ne_true]
  obtain ⟨t, ht, ha, hc, hv, hnz, hpc⟩ := alu_spec hresult
  exact ⟨t, ht, by rw [ha, addBinary_r], by rw [hc, addBinary_c], by rw [hv, addBinary_v], hnz, hpc⟩

/-- Settles O20: the adder with the operand complemented (R253), `~M` being `255 - M`, and as a signed number `-M - 1`. -/
theorem sbcBinaryIsTheDifferenceWithBorrowAndSignedOverflow :
    Obligations.SbcBinaryIsTheDifferenceWithBorrowAndSignedOverflow := by
  intro q s m hd hm
  have hresult : sbcResult (operand q s).1 (operand q s).2 = addBinary s.a (~~~m) s.c := by
    rw [sbcResult_operand, hm, sbcResult, hd, if_neg Bool.false_ne_true]
  obtain ⟨t, ht, ha, hc, hv, hnz, hpc⟩ := alu_spec hresult
  have hnot : (~~~m).toNat = 255 - m.toNat := BitVec.toNat_not
  have hmlt := m.isLt
  have halt := s.a.isLt
  have hcarry := b2n_le_one s.c
  have hnotInt : (~~~m).toInt = -m.toInt - 1 := by
    rw [byte_toInt, byte_toInt, hnot]
    split <;> split <;> omega
  refine ⟨t, ht, ?_, ?_, ?_, hnz, hpc⟩
  · rw [ha, addBinary_r, hnot]
    omega
  · rw [hc, addBinary_c, hnot]
    omega
  · rw [hv, addBinary_v, hnotInt]
    omega

/-- The byte of a two-digit number is valid BCD and has that value (R122). -/
theorem bcdByte_spec {n : Nat} (hn : n < 100) : validBcd (bcdByte n) = true ∧ bcdVal (bcdByte n) = n := by
  have hbyte : (bcdByte n).toNat = 16 * (n / 10) + n % 10 := by
    rw [bcdByte, BitVec.toNat_ofNat]
    omega
  rw [validBcd, bcdVal, hbyte, Bool.and_eq_true, decide_eq_true_iff, decide_eq_true_iff]
  omega

theorem bcdVal_lt_of_validBcd {b : Byte} (h : validBcd b = true) : bcdVal b < 100 := by
  rw [validBcd, Bool.and_eq_true, decide_eq_true_iff, decide_eq_true_iff] at h
  rw [bcdVal]
  omega

/-- Settles O21. -/
theorem adcDecimalAddsTwoDigits : Obligations.AdcDecimalAddsTwoDigits := by
  intro q s m hd hm
  have hresult : adcResult (operand q s).1 (operand q s).2 = addDecimal s.a m s.c := by
    rw [adcResult_operand, hm, adcResult, hd, if_pos rfl]
  obtain ⟨t, ht, ha, hc, hv, hnz, hpc⟩ := alu_spec hresult
  refine ⟨t, ht, hnz, hpc, ?v, fun hva hvm => ?valid, fun hinvalid => ?invalid⟩
  case v =>
    rw [hv, addDecimal]
    split <;> rfl
  case valid =>
    obtain ⟨hbcd, hval⟩ := bcdByte_spec (n := (bcdVal s.a + bcdVal m + b2n s.c) % 100) (by omega)
    have hsum : addDecimal s.a m s.c = _ := if_pos (by rw [hva, hvm]; rfl)
    rw [ha, hc, hsum]
    exact ⟨hbcd, hval, decide_eq_true_iff⟩
  case invalid =>
    have hfree : addDecimal s.a m s.c = Config.decimalAdc s.a m s.c := if_neg (by rwa [Bool.and_eq_true])
    rw [ha, hc, hfree]
    exact ⟨rfl, rfl⟩

/-- Settles O22. -/
theorem sbcDecimalSubtractsTwoDigits : Obligations.SbcDecimalSubtractsTwoDigits := by
  intro q s m hd hm
  have hresult : sbcResult (operand q s).1 (operand q s).2 = subDecimal s.a m s.c := by
    rw [sbcResult_operand, hm, sbcResult, hd, if_pos rfl]
  obtain ⟨t, ht, ha, hc, hv, hnz, hpc⟩ := alu_spec hresult
  refine ⟨t, ht, hnz, hpc, ?v, fun hva hvm => ?valid, fun hinvalid => ?invalid⟩
  case v =>
    rw [hv]
    simp only [subDecimal]
    split <;> [split; skip] <;> rfl
  case valid =>
    have hA := bcdVal_lt_of_validBcd hva
    have hM := bcdVal_lt_of_validBcd hvm
    have hnotc : b2n (!s.c) = 1 - b2n s.c := by cases s.c <;> rfl
    have hcarry := b2n_le_one s.c
    rw [ha, hc]
    simp only [subDecimal, hva, hvm, Bool.and_self, if_true, hnotc]
    split
    · next hle =>
      obtain ⟨hbcd, hval⟩ := bcdByte_spec (n := bcdVal s.a - (bcdVal m + (1 - b2n s.c))) (by omega)
      refine ⟨hbcd, ?_, ?_⟩
      · rw [hval]; omega
      · simp; omega
    · next hlt =>
      obtain ⟨hbcd, hval⟩ := bcdByte_spec (n := bcdVal s.a + 100 - (bcdVal m + (1 - b2n s.c))) (by omega)
      refine ⟨hbcd, ?_, ?_⟩
      · rw [hval]; omega
      · simp; omega
  case invalid =>
    have hfree : subDecimal s.a m s.c = Config.decimalSbc s.a m s.c := if_neg (by rwa [Bool.and_eq_true])
    rw [ha, hc, hfree]
    exact ⟨rfl, rfl⟩

/-! ### O23: the compares (R170) -/

/-- A compare of a register that reading the operand leaves alone. -/
theorem compare_spec (reg : State → Byte) (q : Source) (s : State) (hreg : reg (operand q s).2 = reg s) :
    ∃ t, withOperand q (fun m t => t.setCompare (reg t) m) s = .next t ∧
      (t.c = true ↔ (operand q s).1.toNat ≤ (reg s).toNat) ∧ (t.z = true ↔ reg s = (operand q s).1) ∧
      (t.n = true ↔ 128 ≤ ((reg s).toNat + 256 - (operand q s).1.toNat) % 256) ∧
      t.pc = s.pc + BitVec.ofNat 16 q.len := by
  rw [← hreg]
  refine ⟨_, rfl, decide_eq_true_iff, beq_iff_eq, ?n,
    operand_advance_pc (f := fun m t => t.setCompare (reg t) m) (fun _ _ => rfl) q s⟩
  case n =>
    have hm := (operand q s).1.isLt
    have hdiff : (reg (operand q s).2 - (operand q s).1).toNat =
        ((reg (operand q s).2).toNat + 256 - (operand q s).1.toNat) % 256 := by
      rw [BitVec.toNat_sub]
      omega
    rw [← hdiff]
    exact byte_getLsbD_seven_iff _

/-- Settles O23. -/
theorem comparesSetCarryZeroAndSign : Obligations.ComparesSetCarryZeroAndSign := fun q s =>
  ⟨compare_spec State.a q s (operand_a q s), compare_spec State.x q s (operand_x q s),
    compare_spec State.y q s (operand_y q s)⟩

end Sys2Proof.Machine

/-! The instructions that write a byte of memory, and the branches on one: O16, O24, O25 and O27 to O29. -/

namespace Sys2Proof.Machine

/-! ### A byte written at an address, by the region that stands there -/

/-- The byte `q` written at `b` from `s` on, as claims say it: RAM then holds it, another region keeps its byte, and a
device is handed it after the accesses `log`. -/
structure Writes (b : Word) (q : Byte) (log : List IoEvent) (s t : State) : Prop where
  ram : s.mem.wf = true → s.isRam b → t.peek b = q
  kept : ¬ s.isRam b → t.peek b = s.peek b
  io : s.region b = .io → t.ioLog = .write b q :: log

/-- A store writes, after changes that left memory and its map alone. -/
theorem State.store_writes (b : Word) (q : Byte) {s u : State} (hm : u.mem = s.mem) (hr : u.regions = s.regions) :
    Writes b q u.ioLog s (u.store b q) where
  ram hwf hram := by
    rw [State.store_peek b q (hm ▸ hwf), if_pos ⟨rfl, by rw [State.region_congr hr]; exact hram⟩]
  kept hram := by
    rw [State.store_peek_of_not_ram q (by rw [State.region_congr hr]; exact hram), State.peek, hm, State.peek]
  io hio := by
    rw [State.store, State.region_congr hr, hio]

/-- What follows a store and leaves memory and the IO history alone takes nothing from it. -/
theorem Writes.of_eq {b : Word} {q : Byte} {log : List IoEvent} {s t u : State} (h : Writes b q log s t)
    (hm : u.mem = t.mem) (hlog : u.ioLog = t.ioLog) : Writes b q log s u where
  ram hwf hram := by rw [State.peek, hm]; exact h.ram hwf hram
  kept hram := by rw [State.peek, hm]; exact h.kept hram
  io hio := by rw [hlog]; exact h.io hio

/-! ### O16: stores -/

theorem storeMem_spec (m : AddrMode) (q : Byte) (s : State) :
    ∃ t, storeMem m q s = .next t ∧ t.pc = s.pc + BitVec.ofNat 16 m.len ∧
      (s.mem.wf = true → s.isRam (effAddr m s).1 → t.peek (effAddr m s).1 = q) ∧
      (¬ s.isRam (effAddr m s).1 → t.peek (effAddr m s).1 = s.peek (effAddr m s).1) ∧
      (s.region (effAddr m s).1 = .io → t.ioLog = .write (effAddr m s).1 q :: (effAddr m s).2.ioLog) := by
  have h := (State.store_writes (effAddr m s).1 q (effAddr_mem m s) (effAddr_regions m s)).of_eq
    (u := ((effAddr m s).2.store (effAddr m s).1 q).advance m.len) rfl rfl
  exact ⟨_, rfl, by simp, h.ram, h.kept, h.io⟩

/-- Settles O16. -/
theorem storesWriteTheByteAtTheEffectiveAddress : Obligations.StoresWriteTheByteAtTheEffectiveAddress := fun m s =>
  ⟨storeMem_spec m s.a s, storeMem_spec m s.x s, storeMem_spec m s.y s, storeMem_spec m 0x00#8 s⟩

/-! ### O24 and O25: shifts, rotates, INC and DEC -/

/-- An instruction of the shape `modifyOperand` replaces its operand by what its function of the byte and C says. -/
theorem replacesOperand {op : Target → Instr} {f : Byte → Bool → Byte × Bool} {r : Byte → Bool → Byte}
    {c : Byte → Bool → Bool} (hexec : ∀ t s, exec (op t) s = modifyOperand f t s) (hf : ∀ v k, f v k = (r v k, c v k)) :
    ReplacesOperand op r c := by
  refine ⟨fun s => ?acc, fun m s => ?mem⟩
  case acc =>
    rw [hexec, modifyOperand]
    simp only [placeOf, readPlace, hf]
    exact ⟨_, rfl, rfl, rfl, State.showsNZ_of rfl rfl, rfl⟩
  case mem =>
    have h := (State.store_writes (s := s) (u := { (loadMem m s).2 with c := c (loadMem m s).1 s.c }) (effAddr m s).1
      (r (loadMem m s).1 s.c) (loadMem_mem m s) (loadMem_regions m s)).of_eq
      (u := State.advance m.len (State.setNZ (r (loadMem m s).1 s.c)
        (State.store (effAddr m s).1 (r (loadMem m s).1 s.c) { (loadMem m s).2 with c := c (loadMem m s).1 s.c })))
      rfl rfl
    refine ⟨_, ?_, ?_, ?_, ?_, h.ram, h.kept, h.io⟩
    · rw [hexec, modifyOperand]
      simp only [placeOf, readPlace, hf, writePlace_addr, State.load_c, effAddr_c]
      rfl
    · simp
    · exact State.showsNZ_of rfl rfl
    · simp

theorem shiftLeft_eq (v : Byte) (c : Bool) : shiftLeft v c = (BitVec.ofNat 8 (2 * v.toNat), decide (128 ≤ v.toNat)) := by
  revert v c; decide

theorem shiftRight_eq (v : Byte) (c : Bool) :
    shiftRight v c = (BitVec.ofNat 8 (v.toNat / 2), decide (v.toNat % 2 = 1)) := by
  revert v c; decide

theorem rotateLeft_eq (v : Byte) (c : Bool) :
    rotateLeft v c = (BitVec.ofNat 8 (2 * v.toNat + b2n c), decide (128 ≤ v.toNat)) := by
  revert v c; decide

theorem rotateRight_eq (v : Byte) (c : Bool) :
    rotateRight v c = (BitVec.ofNat 8 (v.toNat / 2 + 128 * b2n c), decide (v.toNat % 2 = 1)) := by
  revert v c; decide

theorem increment_eq (v : Byte) (c : Bool) : increment v c = (BitVec.ofNat 8 (v.toNat + 1), c) := by
  revert v c; decide

theorem decrement_eq (v : Byte) (c : Bool) : decrement v c = (BitVec.ofNat 8 (v.toNat + 255), c) := by
  revert v c; decide

/-- Settles O24. -/
theorem shiftsAndRotatesMoveOneBit : Obligations.ShiftsAndRotatesMoveOneBit :=
  ⟨replacesOperand (fun _ _ => rfl) shiftLeft_eq, replacesOperand (fun _ _ => rfl) shiftRight_eq,
    replacesOperand (fun _ _ => rfl) rotateLeft_eq, replacesOperand (fun _ _ => rfl) rotateRight_eq⟩

/-- Settles O25. -/
theorem incAndDecCountModulo256AndKeepCarry : Obligations.IncAndDecCountModulo256AndKeepCarry :=
  ⟨replacesOperand (fun _ _ => rfl) increment_eq, replacesOperand (fun _ _ => rfl) decrement_eq⟩

/-! ### O27 and O28: TRB, TSB, RMB and SMB -/

/-- The shape of TRB, TSB, RMB and SMB, with the byte it writes given by its bits. -/
theorem modifyBits_spec (m : AddrMode) (test : Bool) {f : Byte → Byte} {bit : Byte → Nat → Bool} (s : State)
    (hf : ∀ (v : Byte) (k : Nat), k < 8 → (f v).getLsbD k = bit v k) :
    ∃ t, modifyBits m test f s = .next t ∧ (test = true → t.z = (s.a &&& (loadMem m s).1 == 0)) ∧
      t.pc = s.pc + BitVec.ofNat 16 m.len ∧
      (s.mem.wf = true → s.isRam (effAddr m s).1 → ∀ k : Nat, k < 8 →
        (t.peek (effAddr m s).1).getLsbD k = bit (loadMem m s).1 k) ∧
      (¬ s.isRam (effAddr m s).1 → t.peek (effAddr m s).1 = s.peek (effAddr m s).1) ∧
      (s.region (effAddr m s).1 = .io → ∃ w : Byte,
        t.ioLog = .write (effAddr m s).1 w :: .read (effAddr m s).1 :: (effAddr m s).2.ioLog ∧
        ∀ k : Nat, k < 8 → w.getLsbD k = bit (loadMem m s).1 k) := by
  have htested : ∃ u : State, u = (if test then (loadMem m s).2.setTest (loadMem m s).1 else (loadMem m s).2) := ⟨_, rfl⟩
  obtain ⟨u, hu⟩ := htested
  have hmem : u.mem = s.mem := by rw [hu]; split <;> simp
  have hregions : u.regions = s.regions := by rw [hu]; split <;> simp
  have hpc : u.pc = s.pc := by rw [hu]; split <;> simp
  have hexec : modifyBits m test f s = .next ((u.store (effAddr m s).1 (f (loadMem m s).1)).advance m.len) := by
    rw [hu]
    rfl
  have hwrites := (State.store_writes (effAddr m s).1 (f (loadMem m s).1) hmem hregions).of_eq
    (u := (u.store (effAddr m s).1 (f (loadMem m s).1)).advance m.len) rfl rfl
  refine ⟨_, hexec, fun htest => ?z, by simp [hpc], fun hwf hram k hk => ?ram, hwrites.kept, fun hio => ?io⟩
  case z => simp [hu, htest]
  case ram => rw [hwrites.ram hwf hram, hf _ k hk]
  case io => exact ⟨_, modifyBits_ioLog_of_io hio hexec, fun k hk => hf _ k hk⟩

theorem clearBits_getLsbD (v a : Byte) (k : Nat) (hk : k < 8) :
    (v &&& ~~~a).getLsbD k = if a.getLsbD k then false else v.getLsbD k := by
  rw [BitVec.getLsbD_and, BitVec.getLsbD_not, decide_eq_true hk]
  cases a.getLsbD k <;> simp

theorem setBits_getLsbD (v a : Byte) (k : Nat) : (v ||| a).getLsbD k = if a.getLsbD k then true else v.getLsbD k := by
  rw [BitVec.getLsbD_or]
  cases a.getLsbD k <;> simp

/-- Settles O27: the byte written is that of R287 and R288, bit by bit. -/
theorem testAndSetOrResetBits : Obligations.TestAndSetOrResetBits := by
  refine fun m s => ⟨?trb, ?tsb⟩
  case trb =>
    obtain ⟨t, ht, hz, hpc, hrest⟩ := modifyBits_spec (f := fun v => v &&& ~~~s.a) m true s
      (fun v k hk => clearBits_getLsbD v s.a k hk)
    exact ⟨t, ht, by rw [hz rfl]; exact beq_iff_eq, hpc, hrest⟩
  case tsb =>
    obtain ⟨t, ht, hz, hpc, hrest⟩ := modifyBits_spec (f := fun v => v ||| s.a) m true s
      (fun v k _ => setBits_getLsbD v s.a k)
    exact ⟨t, ht, by rw [hz rfl]; exact beq_iff_eq, hpc, hrest⟩

/-- The mask of one bit has that bit alone. -/
theorem bitMask_getLsbD (n : Fin 8) (k : Nat) (hk : k < 8) : (bitMask n.val).getLsbD k = decide (k = n.val) := by
  have finite : ∀ n k : Fin 8, (bitMask n.val).getLsbD k.val = decide (k.val = n.val) := by decide
  exact finite n ⟨k, hk⟩

theorem exec_rmb (n : Fin 8) (z : Byte) (s : State) :
    exec (rmb n z) s = modifyBits (.zp z) false (fun u => u &&& ~~~bitMask n.val) s := by
  fin_cases n <;> rfl

theorem exec_smb (n : Fin 8) (z : Byte) (s : State) :
    exec (smb n z) s = modifyBits (.zp z) false (fun u => u ||| bitMask n.val) s := by
  fin_cases n <;> rfl

/-- The byte that RMB and SMB read in RAM is the byte that stands there. -/
theorem loadMem_zp_of_ram {z : Byte} {s : State} (h : s.isRam (zext z)) : (loadMem (.zp z) s).1 = s.peek (zext z) :=
  congrArg Prod.fst (State.load_of_memory (.inl h))

/-- Settles O28: RMB and SMB are TRB and TSB with the mask of one bit and no test. -/
theorem rmbAndSmbChangeOneBit : Obligations.RmbAndSmbChangeOneBit := by
  refine fun n z s => ⟨?rmb, ?smb⟩
  case rmb =>
    obtain ⟨t, ht, -, hpc, hram, hkept, hio⟩ := modifyBits_spec (f := fun v => v &&& ~~~bitMask n.val)
      (bit := fun v k => if k = n.val then false else v.getLsbD k) (.zp z) false s
      (fun v k hk => by rw [clearBits_getLsbD v _ k hk, bitMask_getLsbD n k hk]; simp only [decide_eq_true_eq])
    exact ⟨t, (exec_rmb n z s).trans ht, hpc, fun hwf h => by rw [← loadMem_zp_of_ram h]; exact hram hwf h, hkept, hio⟩
  case smb =>
    obtain ⟨t, ht, -, hpc, hram, hkept, hio⟩ := modifyBits_spec (f := fun v => v ||| bitMask n.val)
      (bit := fun v k => if k = n.val then true else v.getLsbD k) (.zp z) false s
      (fun v k hk => by rw [setBits_getLsbD v _ k, bitMask_getLsbD n k hk]; simp only [decide_eq_true_eq])
    exact ⟨t, (exec_smb n z s).trans ht, hpc, fun hwf h => by rw [← loadMem_zp_of_ram h]; exact hram hwf h, hkept, hio⟩

/-! ### O29: BBR and BBS -/

theorem exec_bbr (n : Fin 8) (z off : Byte) (s : State) : exec (bbr n z off) s = branchOnBit n.val false z off s := by
  fin_cases n <;> rfl

theorem exec_bbs (n : Fin 8) (z off : Byte) (s : State) : exec (bbs n z off) s = branchOnBit n.val true z off s := by
  fin_cases n <;> rfl

/-- A taken branch adds its offset as a signed number (R130), and one that is not adds nothing. -/
theorem branch_target (p : Prop) [Decidable p] (next : Word) (off : Byte) :
    (if p then next + sext off else next) = next + (if p then BitVec.ofInt 16 off.toInt else 0x0000#16) := by
  have hsext : sext off = BitVec.ofInt 16 off.toInt := rfl
  split
  · rw [hsext]
  · rw [BitVec.add_zero]

theorem branchOnBit_target (k : Nat) (want : Bool) (z off : Byte) (s : State) :
    ∃ t, branchOnBit k want z off s = .next t ∧
      t.pc = s.pc + 3#16 +
        (if (s.load (zext z)).1.getLsbD k = want then BitVec.ofInt 16 off.toInt else 0x0000#16) ∧
      (s.isMemory (zext z) → t = { s with pc := t.pc }) := by
  refine ⟨_, branchOnBit_spec k want z off s, ?_, fun hm => ?_⟩
  · rw [State.jump_pc, branch_target]
  · rw [State.load_of_memory hm]
    rfl

/-- Settles O29. -/
theorem bbrAndBbsBranchOnOneBit : Obligations.BbrAndBbsBranchOnOneBit := by
  intro n z off s
  rw [exec_bbr, exec_bbs]
  exact ⟨branchOnBit_target n.val false z off s, branchOnBit_target n.val true z off s⟩

end Sys2Proof.Machine

/-! Branches, jumps, the stack, BRK and RTI, and the instructions that only move PC: O30 to O33, O36 to O42. -/

namespace Sys2Proof.Machine

/-! ### O30 and O31: branches and jumps -/

/-- A relative branch whose condition is `p`. -/
theorem branch_next {c : Bool} {p : Prop} [Decidable p] (hp : c = true ↔ p) (off : Byte) (s : State) :
    branch c off s =
      .next { s with pc := s.pc + 2#16 + (if p then BitVec.ofInt 16 off.toInt else 0x0000#16) } := by
  rw [branch_spec, branch_target]
  simp only [hp]
  rfl

/-- Settles O30. -/
theorem relativeBranchesTestOneFlag : Obligations.RelativeBranchesTestOneFlag := fun off s =>
  ⟨branch_next (.of_eq (Bool.not_eq_true' _)) off s, branch_next .rfl off s, branch_next (.of_eq (Bool.not_eq_true' _)) off s,
    branch_next .rfl off s, branch_next (.of_eq (Bool.not_eq_true' _)) off s, branch_next .rfl off s,
    branch_next (.of_eq (Bool.not_eq_true' _)) off s, branch_next .rfl off s, branch_spec true off s⟩

/-- Settles O31: the indirect forms jump to what `Read16` answers at the pointer. -/
theorem jumpsGoToTheAddressOrThroughThePointer : Obligations.JumpsGoToTheAddressOrThroughThePointer := by
  refine fun b s => ⟨rfl, ⟨_, rfl, fun hm hm' => ?ind⟩, ⟨_, rfl, fun p hp hm hm' => ?indX⟩⟩
  case ind =>
    rw [State.read16_of_memory hm hm', word_eq_ofNat]
    rfl
  case indX =>
    have hpointer : b + zext s.x = p := by
      rw [add_zext, ← hp, BitVec.ofNat_toNat, BitVec.setWidth_eq]
    rw [hpointer, State.read16_of_memory hm hm', word_eq_ofNat]
    rfl

/-! ### O32 and O33: JSR and RTS -/

/-- A word pushed into a RAM stack: its high byte at SP, its low byte below. -/
theorem State.push16_stack (w : Word) {s : State} (hwf : s.mem.wf = true) (h0 : s.isRam (stackAddr s.sp))
    (h1 : s.isRam (stackAddr (s.sp - 1))) :
    (s.push16 w).peek (stackAddr s.sp) = hi w ∧ (s.push16 w).peek (stackAddr (s.sp - 1)) = lo w := by
  have hne : s.sp ≠ s.sp - 1 := by bv_omega
  refine ⟨?_, by rw [State.push16_peek w hwf, if_pos ⟨rfl, h1⟩]⟩
  rw [State.push16_peek w hwf, if_neg fun h => hne (stackAddr_inj.mp h.1), if_pos ⟨rfl, h0⟩]

/-- Settles O32. -/
theorem jsrPushesTheAddressOfItsLastByte : Obligations.JsrPushesTheAddressOfItsLastByte := by
  refine fun b s => ⟨_, rfl, rfl, ?sp, fun hwf h0 h1 => ?stack⟩
  case sp => rw [State.jump_sp, State.push16_sp, sub_one_sub_one]
  case stack =>
    obtain ⟨hhi, hlo⟩ := State.push16_stack (s.pc + 2) hwf h0 h1
    rw [← hi_toNat, ← lo_toNat, ← hhi, ← hlo]
    exact ⟨rfl, rfl⟩

theorem add_one_add_one (q : Byte) : q + 1 + 1 = q + 2 := by bv_omega

/-- A word pulled from RAM or ROM: its low byte above SP, its high byte above that. -/
theorem State.pull16_of_memory {s : State} (h1 : s.isMemory (stackAddr (s.sp + 1)))
    (h2 : s.isMemory (stackAddr (s.sp + 2))) :
    s.pull16 = (word (s.peek (stackAddr (s.sp + 2))) (s.peek (stackAddr (s.sp + 1))), { s with sp := s.sp + 2 }) := by
  rw [← add_one_add_one] at h2 ⊢
  have second := State.pull8_of_memory (s := { s with sp := s.sp + 1 }) h2
  simp only [State.pull16, State.pull8_of_memory h1, second]
  rfl

/-- RTS from RAM or ROM goes one past the word pulled. -/
theorem exec_rts_of_memory {s : State} (h1 : s.isMemory (stackAddr (s.sp + 1)))
    (h2 : s.isMemory (stackAddr (s.sp + 2))) :
    exec .rts s = .next { s with
      sp := s.sp + 2, pc := word (s.peek (stackAddr (s.sp + 2))) (s.peek (stackAddr (s.sp + 1))) + 1 } := by
  have hpull := State.pull16_of_memory h1 h2
  unfold exec
  simp only [execRts, hpull]
  rfl

/-- Settles O33: after a JSR the word pulled is the one it pushed. -/
theorem rtsReturnsPastTheJsr : Obligations.RtsReturnsPastTheJsr := by
  refine ⟨fun s => ⟨_, rfl, fun h1 h2 => ?pulls⟩, fun b s u t hwf h0 h1 hjsr hsp hregions hhi hlo => ?returns⟩
  case pulls =>
    have h := exec_rts_of_memory h1 h2
    rw [word_eq_ofNat] at h
    rw [BitVec.ofNat_add]
    exact Host.Outcome.next.inj h
  case returns =>
    have hu : (s.push16 (s.pc + 2)).jump b = u := Host.Outcome.next.inj hjsr
    subst hu
    obtain ⟨hpushHi, hpushLo⟩ := State.push16_stack (s.pc + 2) hwf h0 h1
    have hsp1 : t.sp + 1 = s.sp - 1 := by rw [hsp, State.jump_sp, State.push16_sp, BitVec.sub_add_cancel]
    have hsp2 : t.sp + 2 = s.sp := by rw [← add_one_add_one, hsp1, BitVec.sub_add_cancel]
    have hmap : ∀ e, t.region e = s.region e := State.region_congr (by rw [hregions, State.jump_regions, State.push16_regions])
    have hpc : s.pc + 2 + 1 = s.pc + 3 := by bv_omega
    rw [exec_rts_of_memory (by rw [hsp1, State.isMemory, hmap]; exact .inl h1)
      (by rw [hsp2, State.isMemory, hmap]; exact .inl h0), hsp1, hsp2, hhi, hlo]
    have hword : word (hi (s.pc + 2)) (lo (s.pc + 2)) + 1 = s.pc + 3 := by rw [word_hi_lo, hpc]
    rw [← hword, ← hpushHi, ← hpushLo]
    rfl

/-! ### O36 and O37: pushes and pulls -/

theorem push_spec (q : Byte) (s : State) :
    ∃ t, Host.Outcome.next ((s.push8 q).advance 1) = (.next t : Host.Outcome State Fault Refusal) ∧ t.sp = s.sp - 1 ∧
      t.pc = s.pc + 1 ∧ (s.mem.wf = true → s.isRam (stackAddr s.sp) → t.peek (stackAddr s.sp) = q) :=
  ⟨_, rfl, State.push8_sp q s, by rw [State.advance_pc, State.push8_pc]; rfl, State.push8_peek_stackAddr q⟩

/-- The image of SR as a number (R34). -/
theorem State.srImage_toNat (s : State) : (s.srImage true).toNat =
    128 * b2n s.n + 64 * b2n s.v + 32 + 16 + 8 * b2n s.d + 4 * b2n s.i + 2 * b2n s.z + b2n s.c := by
  unfold State.srImage
  generalize s.n = n, s.v = v, s.d = d, s.i = i, s.z = z, s.c = c
  revert n v d i z c
  decide

/-- Settles O36. -/
theorem pushesStoreTheByteAndDecrementSp : Obligations.PushesStoreTheByteAndDecrementSp := by
  refine fun s => ⟨push_spec s.a s, push_spec s.x s, push_spec s.y s, ?php⟩
  obtain ⟨t, ht, hsp, hpc, hpeek⟩ := push_spec (s.srImage true) s
  exact ⟨t, ht, hsp, hpc, fun hwf hram => by rw [hpeek hwf hram, State.srImage_toNat]⟩

/-- Settles O37: the byte pulled from RAM or ROM is the one above SP. -/
theorem pullsReadTheByteAboveSp : Obligations.PullsReadTheByteAboveSp := by
  intro s
  have hbyte : s.isMemory (stackAddr (s.sp + 1)) → s.pull8.1 = s.peek (stackAddr (s.sp + 1)) := fun hm =>
    congrArg Prod.fst (State.pull8_of_memory hm)
  refine ⟨⟨_, rfl, ?_, ?_, State.showsNZ_of rfl rfl, hbyte⟩, ⟨_, rfl, ?_, ?_, State.showsNZ_of rfl rfl, hbyte⟩,
    ⟨_, rfl, ?_, ?_, State.showsNZ_of rfl rfl, hbyte⟩, ⟨_, rfl, ?_, ?_, fun hm q hq => ?plp⟩⟩
  case plp =>
    rw [hq, ← hbyte hm]
    exact ⟨rfl, rfl, rfl, rfl, rfl, rfl⟩
  all_goals simp

/-! ### O38 to O40: BRK and RTI -/

/-- Settles O38: BRK is the interrupt sequence with bit 4 set, from the state whose PC is two past the opcode. -/
theorem brkTakesTheInterruptSequenceWithTheBreakBit : Obligations.BrkTakesTheInterruptSequenceWithTheBreakBit := by
  intro s
  have h := State.interrupt_interrupts (vector := Config.irqVector) true (s.jump (s.pc + 2)) (by decide) (by decide)
  exact ⟨_, rfl, h.sp, h.i, h.d, h.run, h.a, h.x, h.y, h.n, h.v, h.z, h.c, h.stack, h.pc⟩

/-- A return from interrupt with the three bytes in RAM or ROM. -/
theorem State.returnFromInterrupt_of_memory {s : State} (h1 : s.isMemory (stackAddr (s.sp + 1)))
    (h2 : s.isMemory (stackAddr (s.sp + 2))) (h3 : s.isMemory (stackAddr (s.sp + 3))) :
    s.returnFromInterrupt = { s.srLoad (s.peek (stackAddr (s.sp + 1))) with
      sp := s.sp + 3, pc := word (s.peek (stackAddr (s.sp + 3))) (s.peek (stackAddr (s.sp + 2))) } := by
  have hsp2 : s.sp + 2 = s.sp + 1 + 1 := by bv_omega
  have hsp3 : s.sp + 3 = s.sp + 1 + 2 := by bv_omega
  rw [hsp2] at h2 ⊢
  rw [hsp3] at h3 ⊢
  have hword := State.pull16_of_memory
    (s := State.srLoad (s.peek (stackAddr (s.sp + 1))) { s with sp := s.sp + 1 }) h2 h3
  simp only [State.returnFromInterrupt, State.pull8_of_memory h1, hword]
  rfl

/-- Settles O39. -/
theorem rtiPullsTheFlagsAndThenTheAddress : Obligations.RtiPullsTheFlagsAndThenTheAddress := by
  refine fun s => ⟨_, rfl, ?sp, fun h1 h2 h3 q hq => ?pulls⟩
  case sp =>
    rw [State.returnFromInterrupt_sp]
    bv_omega
  case pulls =>
    rw [State.returnFromInterrupt_of_memory h1 h2 h3, hq, word_eq_ofNat]
    rfl

/-- Settles O40: RTI pulls what the sequence pushed, the image of SR first. -/
theorem rtiUndoesTheInterruptSequence : Obligations.RtiUndoesTheInterruptSequence := by
  intro vector brk s t hwf h0 h1 h2 hsp hregions hhi hlo hsr
  obtain ⟨hpushHi, hpushLo, hpushSr⟩ := State.interrupt_stack vector brk hwf h0 h1 h2
  rw [State.interrupt_sp] at hsp
  have hsp1 : t.sp + 1 = s.sp - 2 := by bv_omega
  have hsp2 : t.sp + 2 = s.sp - 1 := by bv_omega
  have hsp3 : t.sp + 3 = s.sp := by bv_omega
  have hmap := State.region_congr hregions
  have hreturn := State.returnFromInterrupt_of_memory (s := t) (by rw [hsp1, State.isMemory, hmap]; exact .inl h2)
    (by rw [hsp2, State.isMemory, hmap]; exact .inl h1) (by rw [hsp3, State.isMemory, hmap]; exact .inl h0)
  rw [hsp1, hsp2, hsp3, hhi, hlo, hsr, hpushHi, hpushLo, hpushSr, word_hi_lo, State.srLoad_srImage] at hreturn
  exact congrArg Host.Outcome.next hreturn

/-! ### O41 and O42: WAI, STP and the instructions that only move past their bytes -/

/-- Settles O41. -/
theorem waiAndStpLeaveTheRunningState : Obligations.WaiAndStpLeaveTheRunningState := fun s =>
  ⟨implied_spec (fun t => t.setRun .waiting) s, implied_spec (fun t => t.setRun .stopped) s⟩

/-- Settles O42: each of them is the advance of PC by its length. -/
theorem nopsOnlyMovePastTheirBytes : Obligations.NopsOnlyMovePastTheirBytes := fun _ =>
  ⟨⟨rfl, rfl, rfl⟩, fun _ => rfl, fun _ _ => rfl, fun _ _ _ => rfl⟩

end Sys2Proof.Machine
